-- ==== Sys2Proof/Word.lean ====
section
/-! DEFINITION. The widths of the block's values (spec/00_scope.md R6, R10): every value is an unsigned integer of a
stated width. -/

namespace Sys2Proof

/-- A memory cell, a general register, a timer or an 8-bit immediate. -/
abbrev Byte := BitVec 8

/-- An instruction word, the program counter, the index register or a stack entry. -/
abbrev Word := BitVec 16

/-- The 12-bit address field `nnn` of an instruction (R72). -/
abbrev Addr12 := BitVec 12

/-- A register number `x` or `y` (R72): every value names a register (R20). -/
abbrev Reg := BitVec 4

/-- A row count `n` or one nibble of a word (R72). -/
abbrev Nibble := BitVec 4

/-- The number of memory cells, `MEM_SIZE` (R6). -/
abbrev memSize : Nat := 4096

/-- The flag register `VF`, register 15 (R21). -/
abbrev regF : Reg := 15#4

end Sys2Proof
end

