-- ==== Sys2Proof/Syntax.lean ====
section
/-! DEFINITION. The instruction set: one constructor per row of spec/opcode_table.json, in the table's order
(spec/30_encoding.md R79). The operand fields carry the widths of R72 and R73, so no term of `Instr` has an operand
that the encoding does not hold. -/

namespace Sys2Proof

inductive Instr where
  | clear
  | ret
  | jump (nnn : Addr12)
  | call (nnn : Addr12)
  | skipIfEqImm (x : Reg) (kk : Byte)
  | skipIfNeImm (x : Reg) (kk : Byte)
  | skipIfEqReg (x y : Reg)
  | loadImm (x : Reg) (kk : Byte)
  | addImm (x : Reg) (kk : Byte)
  | move (x y : Reg)
  | or (x y : Reg)
  | and (x y : Reg)
  | xor (x y : Reg)
  | add (x y : Reg)
  | sub (x y : Reg)
  | shr (x y : Reg)
  | subn (x y : Reg)
  | shl (x y : Reg)
  | skipIfNeReg (x y : Reg)
  | loadIndex (nnn : Addr12)
  /-- The 12 bits as written; R75 says how the meaning reads them. -/
  | jumpOffset (nnn : Addr12)
  | random (x : Reg) (kk : Byte)
  | draw (x y : Reg) (n : Nibble)
  | skipIfKey (x : Reg)
  | skipIfNotKey (x : Reg)
  | readDelay (x : Reg)
  | setDelay (x : Reg)
  | setSound (x : Reg)
  | addIndex (x : Reg)
  | fontChar (x : Reg)
  | bcd (x : Reg)
  | storeRegs (x : Reg)
  | loadRegs (x : Reg)
  deriving DecidableEq, Repr

end Sys2Proof
end

