-- ==== Sys2Proof/WellFormed.lean ====
section
/-! DEFINITION. The checks of form. An instruction's operands are typed by their fields' widths (spec/30_encoding.md
R72), so every term of `Instr` is well formed; what can be ill formed is a WORD (it must be one of the opcode table's,
R76, R79, R80) and a ROM image (spec/70_reset_and_hazards.md R193). -/

namespace Sys2Proof

/-- One row of the opcode map (R79): a word is the row's when its bits under `mask` are `value`. -/
structure OpRow where
  mnemonic : String
  mask : Word
  value : Word
  deriving DecidableEq, Repr

/-- The word's fixed bits are the row's. -/
def OpRow.matches (r : OpRow) (w : Word) : Bool := w &&& r.mask == r.value

/-- The row of the opcode map that a constructor stands for (R79). -/
def Instr.row : Instr → OpRow
  | .clear => ⟨"clear", 0xFFFF#16, 0x00E0#16⟩
  | .ret => ⟨"return", 0xFFFF#16, 0x00EE#16⟩
  | .jump _ => ⟨"jump", 0xF000#16, 0x1000#16⟩
  | .call _ => ⟨"call", 0xF000#16, 0x2000#16⟩
  | .skipIfEqImm _ _ => ⟨"skip-if-eq-imm", 0xF000#16, 0x3000#16⟩
  | .skipIfNeImm _ _ => ⟨"skip-if-ne-imm", 0xF000#16, 0x4000#16⟩
  | .skipIfEqReg _ _ => ⟨"skip-if-eq-reg", 0xF00F#16, 0x5000#16⟩
  | .loadImm _ _ => ⟨"load-imm", 0xF000#16, 0x6000#16⟩
  | .addImm _ _ => ⟨"add-imm", 0xF000#16, 0x7000#16⟩
  | .move _ _ => ⟨"move", 0xF00F#16, 0x8000#16⟩
  | .or _ _ => ⟨"or", 0xF00F#16, 0x8001#16⟩
  | .and _ _ => ⟨"and", 0xF00F#16, 0x8002#16⟩
  | .xor _ _ => ⟨"xor", 0xF00F#16, 0x8003#16⟩
  | .add _ _ => ⟨"add", 0xF00F#16, 0x8004#16⟩
  | .sub _ _ => ⟨"sub", 0xF00F#16, 0x8005#16⟩
  | .shr _ _ => ⟨"shr", 0xF00F#16, 0x8006#16⟩
  | .subn _ _ => ⟨"subn", 0xF00F#16, 0x8007#16⟩
  | .shl _ _ => ⟨"shl", 0xF00F#16, 0x800E#16⟩
  | .skipIfNeReg _ _ => ⟨"skip-if-ne-reg", 0xF00F#16, 0x9000#16⟩
  | .loadIndex _ => ⟨"load-index", 0xF000#16, 0xA000#16⟩
  | .jumpOffset _ => ⟨"jump-offset", 0xF000#16, 0xB000#16⟩
  | .random _ _ => ⟨"random", 0xF000#16, 0xC000#16⟩
  | .draw _ _ _ => ⟨"draw", 0xF000#16, 0xD000#16⟩
  | .skipIfKey _ => ⟨"skip-if-key", 0xF0FF#16, 0xE09E#16⟩
  | .skipIfNotKey _ => ⟨"skip-if-not-key", 0xF0FF#16, 0xE0A1#16⟩
  | .readDelay _ => ⟨"read-delay", 0xF0FF#16, 0xF007#16⟩
  | .setDelay _ => ⟨"set-delay", 0xF0FF#16, 0xF015#16⟩
  | .setSound _ => ⟨"set-sound", 0xF0FF#16, 0xF018#16⟩
  | .addIndex _ => ⟨"add-index", 0xF0FF#16, 0xF01E#16⟩
  | .fontChar _ => ⟨"font-char", 0xF0FF#16, 0xF029#16⟩
  | .bcd _ => ⟨"bcd", 0xF0FF#16, 0xF033#16⟩
  | .storeRegs _ => ⟨"store-regs", 0xF0FF#16, 0xF055#16⟩
  | .loadRegs _ => ⟨"load-regs", 0xF0FF#16, 0xF065#16⟩

/-- The opcode map, rows 1 to 17 (R79). -/
def opTableLow : List OpRow :=
  [⟨"clear", 0xFFFF#16, 0x00E0#16⟩,
   ⟨"return", 0xFFFF#16, 0x00EE#16⟩,
   ⟨"jump", 0xF000#16, 0x1000#16⟩,
   ⟨"call", 0xF000#16, 0x2000#16⟩,
   ⟨"skip-if-eq-imm", 0xF000#16, 0x3000#16⟩,
   ⟨"skip-if-ne-imm", 0xF000#16, 0x4000#16⟩,
   ⟨"skip-if-eq-reg", 0xF00F#16, 0x5000#16⟩,
   ⟨"load-imm", 0xF000#16, 0x6000#16⟩,
   ⟨"add-imm", 0xF000#16, 0x7000#16⟩,
   ⟨"move", 0xF00F#16, 0x8000#16⟩,
   ⟨"or", 0xF00F#16, 0x8001#16⟩,
   ⟨"and", 0xF00F#16, 0x8002#16⟩,
   ⟨"xor", 0xF00F#16, 0x8003#16⟩,
   ⟨"add", 0xF00F#16, 0x8004#16⟩,
   ⟨"sub", 0xF00F#16, 0x8005#16⟩,
   ⟨"shr", 0xF00F#16, 0x8006#16⟩,
   ⟨"subn", 0xF00F#16, 0x8007#16⟩]

/-- The opcode map, rows 18 to 33 (R79). -/
def opTableHigh : List OpRow :=
  [⟨"shl", 0xF00F#16, 0x800E#16⟩,
   ⟨"skip-if-ne-reg", 0xF00F#16, 0x9000#16⟩,
   ⟨"load-index", 0xF000#16, 0xA000#16⟩,
   ⟨"jump-offset", 0xF000#16, 0xB000#16⟩,
   ⟨"random", 0xF000#16, 0xC000#16⟩,
   ⟨"draw", 0xF000#16, 0xD000#16⟩,
   ⟨"skip-if-key", 0xF0FF#16, 0xE09E#16⟩,
   ⟨"skip-if-not-key", 0xF0FF#16, 0xE0A1#16⟩,
   ⟨"read-delay", 0xF0FF#16, 0xF007#16⟩,
   ⟨"set-delay", 0xF0FF#16, 0xF015#16⟩,
   ⟨"set-sound", 0xF0FF#16, 0xF018#16⟩,
   ⟨"add-index", 0xF0FF#16, 0xF01E#16⟩,
   ⟨"font-char", 0xF0FF#16, 0xF029#16⟩,
   ⟨"bcd", 0xF0FF#16, 0xF033#16⟩,
   ⟨"store-regs", 0xF0FF#16, 0xF055#16⟩,
   ⟨"load-regs", 0xF0FF#16, 0xF065#16⟩]

/-- The 33 rows of the opcode map (R79). -/
def opTable : List OpRow := opTableLow ++ opTableHigh

/-- The word is an instruction of the table; every other word is unrecognized (R76, R80). -/
def Word.wellFormed (w : Word) : Bool := opTable.any (fun r => r.matches w)

/-- The largest ROM: the space from 0x200 to 0xFFF (R193). -/
def romMax : Nat := 3584

/-- The ROM image fits the program area (R193). -/
def Rom.wellFormed (rom : List Byte) : Bool := rom.length ≤ romMax

end Sys2Proof
end

