-- ==== Sys2Proof/Decode.lean ====
section
/-! DEFINITION. The decoder and the encoder (spec/30_encoding.md). Decoding reads the word alone (R84), is total, and
rejects by name; the rejected words are those R77 lists. -/

namespace Sys2Proof

/-- Why bytes are no instruction. -/
inductive Reject where
  /-- No row of the opcode map matches (R76); the machine runs the word as a no-op with a report (R77). Safe. -/
  | unrecognized (w : Word)
  /-- Fewer than two bytes are left (R70). Never met by the machine's fetch, which reads two bytes (R71). Safe. -/
  | truncated
  deriving DecidableEq, Repr

/-- `n1 = w[15:12]`, the primary opcode (R72). -/
def fieldN1 (w : Word) : Nibble := w.extractLsb' 12 4

/-- `x = w[11:8]` (R72). -/
def fieldX (w : Word) : Reg := w.extractLsb' 8 4

/-- `y = w[7:4]` (R72). -/
def fieldY (w : Word) : Reg := w.extractLsb' 4 4

/-- `n = w[3:0]` (R72). -/
def fieldN (w : Word) : Nibble := w.extractLsb' 0 4

/-- `kk = w[7:0]` (R72). -/
def fieldKK (w : Word) : Byte := w.extractLsb' 0 8

/-- `nnn = w[11:0]` (R72). -/
def fieldNNN (w : Word) : Addr12 := w.extractLsb' 0 12

/-- The group `n1 = 8`: the low nibble selects the operation (R76). -/
def decodeAlu (w : Word) : Except Reject Instr :=
  let x := fieldX w
  let y := fieldY w
  match (fieldN w).toNat with
  | 0x0 => .ok (.move x y)
  | 0x1 => .ok (.or x y)
  | 0x2 => .ok (.and x y)
  | 0x3 => .ok (.xor x y)
  | 0x4 => .ok (.add x y)
  | 0x5 => .ok (.sub x y)
  | 0x6 => .ok (.shr x y)
  | 0x7 => .ok (.subn x y)
  | 0xE => .ok (.shl x y)
  | _ => .error (.unrecognized w)

/-- The group `n1 = 0xE`: the low byte selects the key test (R76). -/
def decodeKey (w : Word) : Except Reject Instr :=
  let x := fieldX w
  match (fieldKK w).toNat with
  | 0x9E => .ok (.skipIfKey x)
  | 0xA1 => .ok (.skipIfNotKey x)
  | _ => .error (.unrecognized w)

/-- The group `n1 = 0xF`: the low byte selects the timer, index or memory operation (R76). -/
def decodeMisc (w : Word) : Except Reject Instr :=
  let x := fieldX w
  match (fieldKK w).toNat with
  | 0x07 => .ok (.readDelay x)
  | 0x15 => .ok (.setDelay x)
  | 0x18 => .ok (.setSound x)
  | 0x1E => .ok (.addIndex x)
  | 0x29 => .ok (.fontChar x)
  | 0x33 => .ok (.bcd x)
  | 0x55 => .ok (.storeRegs x)
  | 0x65 => .ok (.loadRegs x)
  | _ => .error (.unrecognized w)

/-- `decode(w)` of R76. Where prose and table differ, the table governs (spec/90_conflicts.md C1, C2). -/
def decode (w : Word) : Except Reject Instr :=
  let x := fieldX w
  let y := fieldY w
  let n := fieldN w
  let kk := fieldKK w
  let nnn := fieldNNN w
  match (fieldN1 w).toNat with
  | 0x0 =>
    if w = 0x00E0#16 then .ok .clear
    else if w = 0x00EE#16 then .ok .ret
    else .error (.unrecognized w)
  | 0x1 => .ok (.jump nnn)
  | 0x2 => .ok (.call nnn)
  | 0x3 => .ok (.skipIfEqImm x kk)
  | 0x4 => .ok (.skipIfNeImm x kk)
  | 0x5 => if n = 0 then .ok (.skipIfEqReg x y) else .error (.unrecognized w)
  | 0x6 => .ok (.loadImm x kk)
  | 0x7 => .ok (.addImm x kk)
  | 0x8 => decodeAlu w
  | 0x9 => if n = 0 then .ok (.skipIfNeReg x y) else .error (.unrecognized w)
  | 0xA => .ok (.loadIndex nnn)
  | 0xB => .ok (.jumpOffset nnn)
  | 0xC => .ok (.random x kk)
  | 0xD => .ok (.draw x y n)
  | 0xE => decodeKey w
  | 0xF => decodeMisc w
  | _ => .error (.unrecognized w)   -- a nibble has no further value

/-- The word of two bytes, the first at the lower address (R71): big-endian. -/
def wordOfBytes (hi lo : Byte) : Word := hi ++ lo

/-- The byte of a word at the lower address, `w[15:8]` (R54). -/
def wordHi (w : Word) : Byte := w.extractLsb' 8 8

/-- The byte of a word at the higher address, `w[7:0]` (R54). -/
def wordLo (w : Word) : Byte := w.extractLsb' 0 8

/-- Decode from the front of a byte sequence, with the bytes left over: every instruction is two bytes (R70). -/
def decodeBytes : List Byte → Except Reject (Instr × List Byte)
  | hi :: lo :: rest => (decode (wordOfBytes hi lo)).map (fun i => (i, rest))
  | _ => .error .truncated

/-- The word of an instruction, from the encodings of R73 and R79. -/
def encode : Instr → Word
  | .clear => 0x00E0#16
  | .ret => 0x00EE#16
  | .jump nnn => 0x1#4 ++ nnn
  | .call nnn => 0x2#4 ++ nnn
  | .skipIfEqImm x kk => 0x3#4 ++ x ++ kk
  | .skipIfNeImm x kk => 0x4#4 ++ x ++ kk
  | .skipIfEqReg x y => 0x5#4 ++ x ++ y ++ 0x0#4
  | .loadImm x kk => 0x6#4 ++ x ++ kk
  | .addImm x kk => 0x7#4 ++ x ++ kk
  | .move x y => 0x8#4 ++ x ++ y ++ 0x0#4
  | .or x y => 0x8#4 ++ x ++ y ++ 0x1#4
  | .and x y => 0x8#4 ++ x ++ y ++ 0x2#4
  | .xor x y => 0x8#4 ++ x ++ y ++ 0x3#4
  | .add x y => 0x8#4 ++ x ++ y ++ 0x4#4
  | .sub x y => 0x8#4 ++ x ++ y ++ 0x5#4
  | .shr x y => 0x8#4 ++ x ++ y ++ 0x6#4
  | .subn x y => 0x8#4 ++ x ++ y ++ 0x7#4
  | .shl x y => 0x8#4 ++ x ++ y ++ 0xE#4
  | .skipIfNeReg x y => 0x9#4 ++ x ++ y ++ 0x0#4
  | .loadIndex nnn => 0xA#4 ++ nnn
  | .jumpOffset nnn => 0xB#4 ++ nnn
  | .random x kk => 0xC#4 ++ x ++ kk
  | .draw x y n => 0xD#4 ++ x ++ y ++ n
  | .skipIfKey x => 0xE#4 ++ x ++ 0x9E#8
  | .skipIfNotKey x => 0xE#4 ++ x ++ 0xA1#8
  | .readDelay x => 0xF#4 ++ x ++ 0x07#8
  | .setDelay x => 0xF#4 ++ x ++ 0x15#8
  | .setSound x => 0xF#4 ++ x ++ 0x18#8
  | .addIndex x => 0xF#4 ++ x ++ 0x1E#8
  | .fontChar x => 0xF#4 ++ x ++ 0x29#8
  | .bcd x => 0xF#4 ++ x ++ 0x33#8
  | .storeRegs x => 0xF#4 ++ x ++ 0x55#8
  | .loadRegs x => 0xF#4 ++ x ++ 0x65#8

/-- The bytes of an instruction in memory order (R54). -/
def encodeBytes (i : Instr) : List Byte := [wordHi (encode i), wordLo (encode i)]

/-- The 16-bit word numbered as spec/opcode_table.json numbers it; the bits at and above `nbits` are 0. -/
def tableWord (nbits w : Nat) : Word := BitVec.ofNat 16 (w % 2 ^ nbits)

/-- What the decoder reads from the table's word laid out in memory order. -/
def decodeTableWord (nbits w : Nat) : Option Instr :=
  match decodeBytes [wordHi (tableWord nbits w), wordLo (tableWord nbits w)] with
  | .ok (i, _) => some i
  | .error _ => none

end Sys2Proof
end

