-- ==== Sys2Proof/Config.lean ====
section
/-! DEFINITION. What the source fixes no value for (spec/00_scope.md R7): the parameters of a run and the free
inputs. Each is an opaque constant with no body, so that a theorem about it holds for every value. The font
configuration of R8 has a default, which stands in Sys2Proof/Machine/Font.lean. -/

namespace Sys2Proof

/-- `CFG` (spec/10_state.md R34): the three behaviour flags of spec/00_scope.md R2, fixed for a whole run. -/
structure Cfg where
  /-- `LEGACY_SHIFT`: 8xy6 and 8xyE copy `V[y]` first (R128, R130). -/
  legacyShift : Bool
  /-- `LEGACY_JUMP`: Bnnn jumps to `nnn + V[0]` (R103). -/
  legacyJump : Bool
  /-- `LEGACY_MEMORY`: Fx55 advances `I` (R144). -/
  legacyMemory : Bool
  deriving DecidableEq, Repr, Inhabited

/-- The font configuration (R8): `FONT_BASE` and `FONT`, fixed for a whole run. -/
structure Font where
  /-- `FONT_BASE`; R8's proviso `FONT_BASE + 80 ≤ 0x200` is the bound (log 21). -/
  base : Fin 433
  /-- `FONT`: 16 glyphs of 5 bytes, glyph `d` at `5 d` (R6, R192). -/
  glyphs : Vector Byte 80
  deriving DecidableEq, Repr

/-- `cfg_in` (R41, D18): the flags the machine is constructed with. No default. DESIGN CHOICE (log 2), safe. -/
opaque Config.cfgIn : Cfg

/-- `IPF - 1`. `IPF` is any integer of at least 1 (R7, D17). DESIGN CHOICE (log 1), safe. -/
opaque Config.ipfPred : Nat

/-- `IPF`, the number of instructions per frame (spec/60_exceptions.md R177). -/
def Config.ipf : Nat := Config.ipfPred + 1

/-- `keys_in` (R41, R178): the snapshot the host gives at the start of frame number `k`; any pattern in any frame.
A free value. DESIGN CHOICE (log 3), safe. -/
opaque Config.keysIn : Nat → BitVec 16

/-- `rnd_in` (R41, D16): the byte the random source gives to draw number `k`; any byte at every draw. A free value.
DESIGN CHOICE (log 4), safe. -/
opaque Config.rndIn : Nat → Byte

end Sys2Proof
end

