-- ==== Sys2Proof/Machine/Font.lean ====
section
/-! DEFINITION. The defaults of the font configuration of spec/00_scope.md R8, and the memory image they give. -/

namespace Sys2Proof.Machine

/-- The default of `FONT_BASE` (R8, D6). PRESUMED (log 9), unsafe. -/
def fontBase : Nat := 0x050

/-- Glyphs 0 to 7 of the default `FONT` (spec/70_reset_and_hazards.md R192). Glyph 0 is the source's; the others are general
knowledge. PRESUMED (log 9), unsafe. -/
def fontLow : List Byte :=
  [0xF0, 0x90, 0x90, 0x90, 0xF0,
   0x20, 0x60, 0x20, 0x20, 0x70,
   0xF0, 0x10, 0xF0, 0x80, 0xF0,
   0xF0, 0x10, 0xF0, 0x10, 0xF0,
   0x90, 0x90, 0xF0, 0x10, 0x10,
   0xF0, 0x80, 0xF0, 0x10, 0xF0,
   0xF0, 0x80, 0xF0, 0x90, 0xF0,
   0xF0, 0x10, 0x20, 0x40, 0x40]

/-- Glyphs 8 to F of the default `FONT` (R192). PRESUMED (log 9), unsafe. -/
def fontHigh : List Byte :=
  [0xF0, 0x90, 0xF0, 0x90, 0xF0,
   0xF0, 0x90, 0xF0, 0x10, 0xF0,
   0xF0, 0x90, 0xF0, 0x90, 0x90,
   0xE0, 0x90, 0xE0, 0x90, 0xE0,
   0xF0, 0x80, 0x80, 0x80, 0xF0,
   0xE0, 0x90, 0x90, 0x90, 0xE0,
   0xF0, 0x80, 0xF0, 0x80, 0xF0,
   0xF0, 0x80, 0xF0, 0x80, 0x80]

/-- The bytes of the default `FONT` (R192): 16 glyphs of 5 bytes. -/
def font : List Byte := fontLow ++ fontHigh

/-- The font configuration a machine has when it is given none (R8, R192, D6, D7). PRESUMED (log 9), unsafe. -/
def standardFont : Font where
  base := ⟨fontBase, by decide⟩
  glyphs := ⟨font.toArray, rfl⟩

/-- What a cell that is not listed holds: the memory image after initialization with an empty ROM and the default font
(R191): that font at its base, 0x00 elsewhere (D5; log 12). A machine initialized with another font lists the cells that
differ. -/
def unlisted (a : Nat) : Byte :=
  if fontBase ≤ a then font.getD (a - fontBase) 0x00#8 else 0x00#8

end Sys2Proof.Machine
end

