-- ==== Sys2Proof/Machine/State.lean ====
section
/-! DEFINITION. Everything the spec gives the machine, as plain data (spec/10_state.md; INVENTORY.md '## State'). -/

namespace Sys2Proof.Machine

/-- The abnormal ends of a run (spec/60_exceptions.md R161), with the information R161 to R166 record. A fault is
written into `STATUS` by the shared operation `raiseFault` (R169), and the step answers a next state; no step answers
`Host.Outcome.fault`, because the spec gives the state that is left (log 7). -/
inductive Fault where
  /-- Code 2. 00EE with `SP = 0`, at address `addr`; `word` is 0x00EE (R163). Raised by `execRet`. Safe. -/
  | stackUnderflow (addr word : Word)
  /-- Code 5. A step began with `PC = 0xFFF` (R165). Raised by `coreStep`. Safe. -/
  | fetchStraddlesEnd (addr : Word)
  /-- Code 6. Ex9E or ExA1 with `V[x] = value ≥ 16` (R166). Raised by `execSkipIfKey` and `execSkipIfNotKey`.
  Safe. -/
  | keyIndexOutOfRange (addr word : Word) (value : Byte)
  deriving DecidableEq, Repr

/-- What has no meaning in the model. -/
inductive Refusal where
  /-- An instruction that `exec` gives no meaning yet. Raised by no arm of `exec`: every instruction has one.
  Safe. -/
  | notModelled (mnemonic : String)
  /-- `initMachine` was given a ROM of more than 3584 bytes (spec/70_reset_and_hazards.md R193): "no meaning in the
  model and starts no run". Raised by `initMachine`, by no step. Safe. -/
  | romTooLong
  deriving DecidableEq, Repr

/-- The normal end of a run. -/
inductive HaltCause where
  /-- Code 3. A step began with `PC = addr ≥ 0x1000` (R164). -/
  | outOfBoundsFetch (addr : Word)
  deriving DecidableEq, Repr

/-- `STATUS` (R35). -/
inductive Status where
  | running
  | halted (cause : HaltCause)
  | faulted (cause : Fault)
  deriving DecidableEq, Repr

/-- One entry `(code, addr, word, info)` of `LOG` (R36, R168). -/
inductive Report where
  /-- Code 1. 2nnn at `addr` with `SP = 16`; `target` is its `nnn` (R162). -/
  | stackOverflow (addr word : Word) (target : Addr12)
  /-- Code 4. The word `word` at `addr` matches no row (R167). -/
  | unrecognizedOpcode (addr word : Word)
  deriving DecidableEq, Repr

/-- `FB` (R31): 32 rows of 64 pixels; `fb[y][x]` is row `y`, column `x`; true is set. -/
abbrev Display := Vector (Vector Bool 64) 32

/-- `M` (spec/20_memory.md R50), as the list of the cells that differ from `unlisted`, addresses strictly rising. -/
abbrev Memory := List Host.Cell

/-- The state of the core and of the frame protocol that steps it. -/
structure State where
  /-- `V[0]` to `V[15]` (R20). -/
  v : Vector Byte 16
  /-- `I` (R23). -/
  i : Word
  /-- `PC` (R24). -/
  pc : Word
  /-- `STACK[0]` to `STACK[15]`, the oldest entry first (R27). -/
  stack : Vector Word 16
  /-- `SP`, the number of valid stack entries, 0 to 16 (R27). -/
  sp : Fin 17
  /-- `DT` (R29). -/
  dt : Byte
  /-- `ST` (R30). -/
  st : Byte
  /-- `FB` (R31). -/
  fb : Display
  /-- `DIRTY` (R32). -/
  dirty : Bool
  /-- `KEYS` (R33): bit `k` is key `k`. -/
  keys : BitVec 16
  /-- `CFG` (R34). -/
  cfg : Cfg
  /-- `FONT_BASE` (spec/00_scope.md R8), as it was configured; Fx29 reads it and nothing writes it (log 21). -/
  fontBase : Fin 433
  /-- `STATUS` (R35). -/
  status : Status
  /-- `LOG` (R36), the oldest entry first. -/
  log : List Report
  /-- `M` (R37). -/
  mem : Memory
  /-- How many steps of the current frame are done (R40); 0 when the next step begins a frame. -/
  framePos : Nat
  /-- How many `redraw_out` events have been emitted (R41, R176). The model's own field (log 6). -/
  redraws : Nat
  /-- How many frames have begun; selects `Config.keysIn`. The model's own field (log 3). -/
  frameNo : Nat
  /-- How many random bytes have been drawn; selects `Config.rndIn`. The model's own field (log 4). -/
  drawNo : Nat
  deriving DecidableEq, Repr

/-- The state after initialization with an empty ROM (R42, spec/70_reset_and_hazards.md R191), before the first step.
The values are R42's, which the spec marks as its decisions D3 and D4 (log 10), but for these: the spec gives no value to
the stack's entries nor to the frame position, and `redraws`, `frameNo` and `drawNo` are the model's own, so their values
are DESIGN CHOICE (logs 11, 5, 6, 3, 4); the font base is the default of R8 (D6; log 9). -/
def State.reset : State where
  v := Vector.replicate 16 0x00#8
  i := 0x0000#16
  pc := 0x0200#16
  stack := Vector.replicate 16 0x0000#16
  sp := 0
  dt := 0x00#8
  st := 0x00#8
  fb := Vector.replicate 32 (Vector.replicate 64 false)
  dirty := false
  keys := 0x0000#16
  cfg := Config.cfgIn
  fontBase := standardFont.base
  status := .running
  log := []
  mem := []
  framePos := 0
  redraws := 0
  frameNo := 0
  drawNo := 0

end Sys2Proof.Machine
end

