-- ==== Sys2Proof/Machine/Ops.lean ====
section
/-! DEFINITION. The named operations over memory, registers, the stack, the display, `STATUS` and `LOG`
(spec/00_scope.md R11). Every read and write of state by a meaning goes through these. -/

namespace Sys2Proof.Machine

/-- What a step, or the meaning of an instruction, answers. -/
abbrev Result := Host.Outcome State Fault Refusal

/-! ## Memory (spec/20_memory.md) -/

/-- The byte a memory holds at an address. -/
def Memory.read : Memory → Nat → Byte
  | [], a => unlisted a
  | (b, u) :: m, a => if a = b then u else Memory.read m a

/-- The cell to list for a byte at an address: none when it is what an unlisted address reads as. -/
def Memory.cell (a : Nat) (u : Byte) : Memory := if u = unlisted a then [] else [(a, u)]

/-- Write one byte, keeping the canonical form. -/
def Memory.write : Memory → Nat → Byte → Memory
  | [], a, u => Memory.cell a u
  | (b, w) :: m, a, u =>
    if a < b then Memory.cell a u ++ (b, w) :: m
    else if a = b then Memory.cell a u ++ m
    else (b, w) :: Memory.write m a u

/-- The canonical form: addresses strictly rising and inside the address space (R50), and no cell listed that holds
what an unlisted address reads as. -/
abbrev Memory.wf (m : Memory) : Prop :=
  m.Pairwise (fun c d => c.1 < d.1) ∧ ∀ c ∈ m, c.1 < memSize ∧ c.2 ≠ unlisted c.1

/-- `MemRead(addr, 1)` (R51): the address is reduced to 12 bits. -/
def State.memRead (s : State) (addr : Nat) : Byte := s.mem.read (addr % memSize)

/-- `MemWrite(addr, 1, u)` (R51). -/
def State.memWrite (s : State) (addr : Nat) (u : Byte) : State :=
  { s with mem := s.mem.write (addr % memSize) u }

/-- `SpriteRead(addr)` (R52): not reduced; 0x00 at and past the end of memory (C3). -/
def State.spriteRead (s : State) (addr : Nat) : Byte :=
  if memSize ≤ addr then 0x00#8 else s.mem.read addr

/-- The instruction word at `PC` (spec/30_encoding.md R71, R53): big-endian, not masked. The step reads it only when
`PC ≤ 0xFFE`. -/
def State.fetchWord (s : State) : Word :=
  wordOfBytes (s.mem.read s.pc.toNat) (s.mem.read (s.pc.toNat + 1))

/-! ## Registers (spec/10_state.md R20 to R25) -/

/-- `V[x]`. -/
def State.reg (s : State) (x : Reg) : Byte := s.v[x.toNat]'x.isLt

/-- `V[x] <- u`. -/
def State.setReg (s : State) (x : Reg) (u : Byte) : State := { s with v := s.v.set x.toNat u x.isLt }

/-- `VF <- u` (R21). -/
def State.setVF (s : State) (u : Byte) : State := s.setReg regF u

/-- `I <- u`. -/
def State.setI (s : State) (u : Word) : State := { s with i := u }

/-- `pc <- u`. -/
def State.setPC (s : State) (u : Word) : State := { s with pc := u }

/-- `PC <- (PC + 2) mod 2^16`, after the fetch and before the dispatch (R25). -/
def State.advance (s : State) : State := s.setPC (s.pc + 2)

/-- The address `a` of the instruction that is executing: `PC` holds `a + 2` until the instruction changes it
(R24). -/
def State.instrAddr (s : State) : Word := s.pc - 2

/-- `skip()` when the condition holds (spec/42_skips.md R110). -/
def State.skipIf (s : State) (c : Bool) : State := s.setPC (if c then s.pc + 2 else s.pc)

/-! ## The call stack (R28) -/

/-- `Push(u)`; the caller checks `SP < 16` first (with `SP = 16` nothing is pushed). -/
def State.push (s : State) (u : Word) : State :=
  if h : s.sp.val < 16 then { s with stack := s.stack.set s.sp.val u h, sp := ⟨s.sp.val + 1, Nat.succ_lt_succ h⟩ }
  else s

/-- The depth that `Pop()` leaves. -/
def State.popDepth (s : State) : Fin 17 := ⟨s.sp.val - 1, Nat.lt_of_le_of_lt (Nat.sub_le _ _) s.sp.isLt⟩

/-- The value that `Pop()` returns; the caller checks `SP > 0` first. -/
def State.popValue (s : State) : Word := s.stack[s.sp.val - 1]'(by have := s.sp.isLt; omega)

/-- `PC <- Pop()`. -/
def State.popPC (s : State) : State := { s with sp := s.popDepth, pc := s.popValue }

/-! ## The display surface (R31, R32) -/

/-- `FB[y][x]`. -/
def Display.pixel (d : Display) (y : Fin 32) (x : Fin 64) : Bool := (d[y.val]'y.isLt)[x.val]'x.isLt

/-- `FB[y][x] <- FB[y][x] ^ 1`. -/
def Display.flip (d : Display) (y : Fin 32) (x : Fin 64) : Display :=
  d.set y.val ((d[y.val]'y.isLt).set x.val (!d.pixel y x) x.isLt) y.isLt

/-- Every pixel 0. -/
def Display.blank : Display := Vector.replicate 32 (Vector.replicate 64 false)

/-! ## Errors (spec/60_exceptions.md). There is no trap entry and no trap return (R172, R173): a report appends to
`LOG`, and a stop writes `STATUS`. -/

/-- `report(cause, info)` (R168). -/
def State.report (s : State) (r : Report) : State := { s with log := s.log ++ [r] }

/-- `halt(cause)` (R169). -/
def State.halt (s : State) (c : HaltCause) : State := { s with status := .halted c }

/-- `raise Fault(cause, info)` (R169). The state keeps everything else as the instruction left it. -/
def State.raiseFault (s : State) (f : Fault) : State := { s with status := .faulted f }

/-- The code of a report (R161). -/
def Report.code : Report → Nat
  | .stackOverflow .. => 1
  | .unrecognizedOpcode .. => 4

/-- The code of a fault (R161). -/
def Fault.code : Fault → Nat
  | .stackUnderflow .. => 2
  | .fetchStraddlesEnd .. => 5
  | .keyIndexOutOfRange .. => 6

/-- The code of a halt (R161). -/
def HaltCause.code : HaltCause → Nat
  | .outOfBoundsFetch .. => 3

/-- An unrecognized word (R77): a no-op with a report; `PC` is already advanced. -/
def State.unrecognized (s : State) (w : Word) : State := s.report (.unrecognizedOpcode s.instrAddr w)

/-! ## Outputs (R41) -/

/-- `sound_on` (R175). -/
def State.soundOn (s : State) : Bool := s.st != 0

end Sys2Proof.Machine
end

