-- ==== Sys2Proof/Machine/Operands.lean ====
section
/-! DEFINITION. The operand forms: how an instruction's fields and registers give a target, an address or a value
(spec/30_encoding.md R74, R75; spec/44_index_memory.md). -/

namespace Sys2Proof.Machine

/-- `zext_16(nnn)` (R74). -/
def addrOf (nnn : Addr12) : Word := nnn.setWidth 16

/-- The register field `x` inside the 12 bits of Bnnn: its high nibble (R73, format XKK). -/
def offsetReg (nnn : Addr12) : Reg := nnn.extractLsb' 8 4

/-- The immediate `kk` inside the 12 bits of Bnnn: its low byte (R73, format XKK). -/
def offsetImm (nnn : Addr12) : Byte := nnn.extractLsb' 0 8

/-- The target of Bnnn (R75, R103): `nnn + V[0]` when `LEGACY_JUMP` is set, else `kk + V[x]`. The sum is not reduced
to 12 bits. -/
def State.jumpOffsetTarget (s : State) (nnn : Addr12) : Word :=
  if s.cfg.legacyJump then addrOf nnn + (s.reg 0).setWidth 16
  else (offsetImm nnn).setWidth 16 + (s.reg (offsetReg nnn)).setWidth 16

/-- The one data addressing mode: `I + k`, unbounded; `memRead` and `memWrite` reduce it (R51). -/
def State.dataAddr (s : State) (k : Nat) : Nat := s.i.toNat + k

/-- `FONT_BASE + V[x] * 5` (R142), for the register's value `u`, which is not masked. -/
def State.glyphAddr (s : State) (u : Byte) : Word := BitVec.ofNat 16 (s.fontBase.val + u.toNat * 5)

/-- The decimal digits of a byte, hundreds, tens, ones (R143). -/
def hundreds (u : Byte) : Byte := BitVec.ofNat 8 (u.toNat / 100)

def tens (u : Byte) : Byte := BitVec.ofNat 8 (u.toNat / 10 % 10)

def ones (u : Byte) : Byte := BitVec.ofNat 8 (u.toNat % 10)

/-- The start column of Dxyn: `V[x] mod 64` (R92). -/
def startColumn (u : Byte) : Nat := u.toNat % 64

/-- The start row of Dxyn: `V[y] mod 32` (R92). -/
def startRow (u : Byte) : Nat := u.toNat % 32

/-- The value that 8xy6 and 8xyE shift is in `V[x]` after this: `if CFG.LEGACY_SHIFT == 1 then V[x] <- V[y]` (R128,
R130). -/
def State.shiftSource (s : State) (x y : Reg) : State :=
  s.setReg x (if s.cfg.legacyShift then s.reg y else s.reg x)

/-- `KEYS[k]` for a key number below 16 (spec/42_skips.md R117). -/
def State.keyBit (s : State) (k : Byte) : Bool := s.keys.getLsbD k.toNat

/-- A key number the snapshot does not have (R117). -/
def keyOutOfRange (k : Byte) : Bool := 16 ≤ k.toNat

end Sys2Proof.Machine
end

