-- ==== Sys2Proof/Machine/Flags.lean ====
section
/-! DEFINITION. The values written to the flag register VF (spec/10_state.md R21). A flag is written before the
result, which may overwrite it (spec/43_alu.md R133). -/

namespace Sys2Proof.Machine

/-- `if c then 1 else 0` (spec/00_scope.md R13). -/
def flagOf (c : Bool) : Byte := if c then 1 else 0

/-- The carry of 8xy4: the sum exceeds 255 (R126). -/
def carryFlag (a b : Byte) : Byte := flagOf (255 < a.toNat + b.toNat)

/-- The borrow-style flag of 8xy5 and 8xy7: strictly greater (R127, R129). -/
def greaterFlag (a b : Byte) : Byte := flagOf (b.toNat < a.toNat)

/-- The bit that 8xy6 shifts out: bit 0 (R128). -/
def lowBitFlag (a : Byte) : Byte := a &&& 1

/-- The bit that 8xyE shifts out: bit 7 (R130). -/
def highBitFlag (a : Byte) : Byte := (a >>> 7) &&& 1

/-- The collision flag of Dxyn (spec/40_display.md R92). -/
def collisionFlag (hit : Bool) : Byte := flagOf hit

end Sys2Proof.Machine
end

