-- ==== Sys2Proof/Machine/Alu.lean ====
section
/-! DEFINITION. The register and ALU instructions (spec/43_alu.md). The pseudocode is sequential
(spec/00_scope.md R12): a read after a write of the same register sees the new value, which decides the results when an
operand is VF (R133, spec/90_conflicts.md C5). -/

namespace Sys2Proof.Machine

/-- load-imm (R120). -/
def execLoadImm (x : Reg) (kk : Byte) (s : State) : Result := .next (s.setReg x kk)

/-- add-imm (R121): modulo 256, no flag. -/
def execAddImm (x : Reg) (kk : Byte) (s : State) : Result := .next (s.setReg x (s.reg x + kk))

/-- move (R122). -/
def execMove (x y : Reg) (s : State) : Result := .next (s.setReg x (s.reg y))

/-- or (R123): no flag. -/
def execOr (x y : Reg) (s : State) : Result := .next (s.setReg x (s.reg x ||| s.reg y))

/-- and (R124): no flag. -/
def execAnd (x y : Reg) (s : State) : Result := .next (s.setReg x (s.reg x &&& s.reg y))

/-- xor (R125): no flag. -/
def execXor (x y : Reg) (s : State) : Result := .next (s.setReg x (s.reg x ^^^ s.reg y))

/-- add (R126): the sum is taken before the flag is written. -/
def execAdd (x y : Reg) (s : State) : Result :=
  let t := s.setVF (carryFlag (s.reg x) (s.reg y))
  .next (t.setReg x (s.reg x + s.reg y))

/-- sub (R127): the difference is taken after the flag is written. -/
def execSub (x y : Reg) (s : State) : Result :=
  let t := s.setVF (greaterFlag (s.reg x) (s.reg y))
  .next (t.setReg x (t.reg x - t.reg y))

/-- shr (R128): the flag is the bit shifted out; the shift reads after the flag is written. -/
def execShr (x y : Reg) (s : State) : Result :=
  let u := s.shiftSource x y
  let t := u.setVF (lowBitFlag (u.reg x))
  .next (t.setReg x (t.reg x >>> 1))

/-- subn (R129): the difference is taken after the flag is written. -/
def execSubn (x y : Reg) (s : State) : Result :=
  let t := s.setVF (greaterFlag (s.reg y) (s.reg x))
  .next (t.setReg x (t.reg y - t.reg x))

/-- shl (R130): the flag is the bit shifted out; the shift reads after the flag is written. -/
def execShl (x y : Reg) (s : State) : Result :=
  let u := s.shiftSource x y
  let t := u.setVF (highBitFlag (u.reg x))
  .next (t.setReg x (t.reg x <<< 1))

/-- `rnd` (spec/10_state.md R41): the free byte of this draw, and the state whose next draw is a fresh one. -/
def State.takeRandom (s : State) : Byte × State := (Config.rndIn s.drawNo, { s with drawNo := s.drawNo + 1 })

/-- random (R131). -/
def execRandom (x : Reg) (kk : Byte) (s : State) : Result :=
  .next (s.takeRandom.2.setReg x (s.takeRandom.1 &&& kk))

end Sys2Proof.Machine
end

