-- ==== Sys2Proof/Machine/ControlFlow.lean ====
section
/-! DEFINITION. The control-flow instructions (spec/41_control_flow.md). `PC` is `a + 2` when a meaning starts. -/

namespace Sys2Proof.Machine

/-- return (R100): StackUnderflow on an empty stack (R163), with nothing changed but `STATUS`. -/
def execRet (s : State) : Result :=
  if s.sp.val = 0 then .next (s.raiseFault (.stackUnderflow s.instrAddr (encode .ret)))
  else .next s.popPC

/-- jump (R101). -/
def execJump (nnn : Addr12) (s : State) : Result := .next (s.setPC (addrOf nnn))

/-- call (R102): StackOverflow when 16 entries are on the stack (R162), a report and no other effect. -/
def execCall (nnn : Addr12) (s : State) : Result :=
  if s.sp.val = 16 then .next (s.report (.stackOverflow s.instrAddr (encode (.call nnn)) nnn))
  else .next ((s.push s.pc).setPC (addrOf nnn))

/-- jump-offset (R103). -/
def execJumpOffset (nnn : Addr12) (s : State) : Result := .next (s.setPC (s.jumpOffsetTarget nnn))

end Sys2Proof.Machine
end

