-- ==== Sys2Proof/Machine/Display.lean ====
section
/-! DEFINITION. The display instructions (spec/40_display.md). Each meaning starts from the state after the `PC`
advance (spec/30_encoding.md R78). -/

namespace Sys2Proof.Machine

/-- A drawing in progress: the surface and the collision so far. -/
structure Canvas where
  fb : Display
  hit : Bool
  deriving DecidableEq, Repr

/-- One set sprite bit at column `px mod 64`, row `py mod 32` (R92): a pixel that was 1 is a collision; the pixel is
XORed. -/
def xorPixel (k : Canvas) (py px : Nat) : Canvas :=
  let y : Fin 32 := ⟨py % 32, Nat.mod_lt _ (by decide)⟩
  let x : Fin 64 := ⟨px % 64, Nat.mod_lt _ (by decide)⟩
  { fb := k.fb.flip y x, hit := k.hit || k.fb.pixel y x }

/-- One row byte of a sprite: column offset `c` is bit `7 - c` (R90, R92). -/
def drawRow (bits : Byte) (x0 py : Nat) (k : Canvas) : Canvas :=
  (List.range 8).foldl (fun k c => if bits.getLsbD (7 - c) then xorPixel k py (x0 + c) else k) k

/-- The `n` rows of a sprite, row `r` read at `I + r` (R92, spec/20_memory.md R52). -/
def drawSprite (s : State) (n x0 y0 : Nat) : Canvas :=
  (List.range n).foldl (fun k r => drawRow (s.spriteRead (s.dataAddr r)) x0 (y0 + r) k) { fb := s.fb, hit := false }

/-- The surface and `DIRTY` after a drawing. -/
def State.showDisplay (s : State) (d : Display) : State := { s with fb := d, dirty := true }

/-- clear (R91). -/
def execClear (s : State) : Result := .next (s.showDisplay Display.blank)

/-- draw (R92). Both coordinates are read before VF is written, and VF is written last. -/
def execDraw (x y : Reg) (n : Nibble) (s : State) : Result :=
  let k := drawSprite s n.toNat (startColumn (s.reg x)) (startRow (s.reg y))
  .next ((s.setVF (collisionFlag k.hit)).showDisplay k.fb)

end Sys2Proof.Machine
end

