-- ==== Sys2Proof/Machine/IndexMemory.lean ====
section
/-! DEFINITION. The index-register and memory instructions (spec/44_index_memory.md). -/

namespace Sys2Proof.Machine

/-- load-index (R140). -/
def execLoadIndex (nnn : Addr12) (s : State) : Result := .next (s.setI (addrOf nnn))

/-- add-index (R141): modulo 2^16, not masked to 12 bits, no flag. -/
def execAddIndex (x : Reg) (s : State) : Result := .next (s.setI (s.i + (s.reg x).setWidth 16))

/-- font-char (R142). -/
def execFontChar (x : Reg) (s : State) : Result := .next (s.setI (s.glyphAddr (s.reg x)))

/-- bcd (R143): three digits at rising addresses, hundreds first. -/
def execBcd (x : Reg) (s : State) : Result :=
  let u := s.reg x
  .next (((s.memWrite (s.dataAddr 0) (hundreds u)).memWrite (s.dataAddr 1) (tens u)).memWrite (s.dataAddr 2) (ones u))

/-- `for k in 0 .. n-1: MemWrite(I + k, 1, V[k])` (R144). -/
def storeLoop (n : Nat) (s : State) : State :=
  (List.range n).foldl (fun t k => t.memWrite (t.dataAddr k) (t.reg (BitVec.ofNat 4 k))) s

/-- `for k in 0 .. n-1: V[k] <- MemRead(I + k, 1)` (R145). -/
def loadLoop (n : Nat) (s : State) : State :=
  (List.range n).foldl (fun t k => t.setReg (BitVec.ofNat 4 k) (t.memRead (t.dataAddr k))) s

/-- store-regs (R144): `LEGACY_MEMORY` advances `I` by the count copied, modulo 2^16, after the stores. -/
def execStoreRegs (x : Reg) (s : State) : Result :=
  let t := storeLoop (x.toNat + 1) s
  .next (t.setI (if s.cfg.legacyMemory then s.i + BitVec.ofNat 16 (x.toNat + 1) else s.i))

/-- load-regs (R145): `I` is unchanged in both modes (spec/90_conflicts.md C6). -/
def execLoadRegs (x : Reg) (s : State) : Result := .next (loadLoop (x.toNat + 1) s)

end Sys2Proof.Machine
end

