-- ==== Sys2Proof/Machine/Skips.lean ====
section
/-! DEFINITION. The conditional skips (spec/42_skips.md). -/

namespace Sys2Proof.Machine

/-- skip-if-eq-imm (R111). -/
def execSkipIfEqImm (x : Reg) (kk : Byte) (s : State) : Result := .next (s.skipIf (s.reg x == kk))

/-- skip-if-ne-imm (R112). -/
def execSkipIfNeImm (x : Reg) (kk : Byte) (s : State) : Result := .next (s.skipIf (s.reg x != kk))

/-- skip-if-eq-reg (R113). -/
def execSkipIfEqReg (x y : Reg) (s : State) : Result := .next (s.skipIf (s.reg x == s.reg y))

/-- skip-if-ne-reg (R114). -/
def execSkipIfNeReg (x y : Reg) (s : State) : Result := .next (s.skipIf (s.reg x != s.reg y))

/-- `KeyPressed(V[x])` and the skip when the key's bit is `wanted` (R117): KeyIndexOutOfRange for a key number of 16 or
more, with nothing changed but `STATUS` (R166). `word` is the instruction's word, which the fault records. -/
def keyTest (wanted : Bool) (word : Word) (x : Reg) (s : State) : Result :=
  if keyOutOfRange (s.reg x) then .next (s.raiseFault (.keyIndexOutOfRange s.instrAddr word (s.reg x)))
  else .next (s.skipIf (s.keyBit (s.reg x) == wanted))

/-- skip-if-key (R115). -/
def execSkipIfKey (x : Reg) (s : State) : Result := keyTest true (encode (.skipIfKey x)) x s

/-- skip-if-not-key (R116). -/
def execSkipIfNotKey (x : Reg) (s : State) : Result := keyTest false (encode (.skipIfNotKey x)) x s

end Sys2Proof.Machine
end

