-- ==== Sys2Proof/Machine/Timers.lean ====
section
/-! DEFINITION. The timer instructions (spec/45_timers.md) and the timer tick (spec/60_exceptions.md R174). -/

namespace Sys2Proof.Machine

/-- read-delay (R150). -/
def execReadDelay (x : Reg) (s : State) : Result := .next (s.setReg x s.dt)

/-- set-delay (R151). -/
def execSetDelay (x : Reg) (s : State) : Result := .next { s with dt := s.reg x }

/-- set-sound (R152). -/
def execSetSound (x : Reg) (s : State) : Result := .next { s with st := s.reg x }

/-- `if T > 0 then T <- T - 1` (R174). -/
def tickDown (u : Byte) : Byte := if u = 0 then 0 else u - 1

/-- `TimerTick()` (R174): both timers at the same point. -/
def State.timerTick (s : State) : State := { s with dt := tickDown s.dt, st := tickDown s.st }

end Sys2Proof.Machine
end

