-- ==== Sys2Proof/Machine/Cycle.lean ====
section
/-! DEFINITION. The instruction cycle (spec/30_encoding.md R78), the frame protocol around it (spec/60_exceptions.md
R176), and initialization (spec/70_reset_and_hazards.md R191). -/

namespace Sys2Proof.Machine

/-- The last address at which a whole instruction can be fetched. -/
def lastFetch : Nat := 0xFFE

/-- The dispatch of R78 for the fetched word `w`, on the state after the `PC` advance: the instruction's meaning, or
R77's no-op. -/
def dispatch (w : Word) (s : State) : Result :=
  match decode w with
  | .ok i => exec i s
  | .error _ => .next (s.unrecognized w)

/-- `Step()` (R78), its conditions in the order of spec/60_exceptions.md R170. -/
def coreStep (s : State) : Result :=
  if s.status ≠ .running then .next s
  else if memSize ≤ s.pc.toNat then .next (s.halt (.outOfBoundsFetch s.pc))
  else if lastFetch < s.pc.toNat then .next (s.raiseFault (.fetchStraddlesEnd s.pc))
  else dispatch s.fetchWord s.advance

/-! ## The frame protocol -/

/-- `if DIRTY == 1 then emit redraw_out; DIRTY <- 0` (R176, spec/10_state.md R32). -/
def State.offerRedraw (s : State) : State :=
  { s with dirty := false, redraws := if s.dirty then s.redraws + 1 else s.redraws }

/-- The opening of a frame: `KEYS <- keys_in` (R176), for the host's snapshot `ks`. -/
def State.loadKeys (s : State) (ks : BitVec 16) : State := { s with keys := ks }

/-- `repeat k times: Step(); if STATUS != Running then return` (R176). -/
def batch : Nat → State → Result
  | 0, s => .next s
  | k + 1, s =>
    match coreStep s with
    | .next t => if t.status = .running then batch k t else .next t
    | .fault r => .fault r
    | .refused r => .refused r

/-- The closing of a frame, for a run that has not stopped (R176). -/
def closeFrame (t : State) : State := if t.status = .running then t.timerTick.offerRedraw else t

/-- One whole `Frame()` (R176) with `keys_in = ks` and `IPF = ipf`. -/
def frame (ipf : Nat) (ks : BitVec 16) (s : State) : Result :=
  if s.status ≠ .running then .next s
  else
    match batch ipf (s.loadKeys ks) with
    | .next t => .next (closeFrame t)
    | .fault r => .fault r
    | .refused r => .refused r

/-- What the protocol does before a step: at the start of a frame (`framePos = 0`) it loads the frame's snapshot, which
is free (R176, R178; logs 3 and 5). -/
def State.frameBegin (s : State) : State :=
  { s with
    keys := if s.framePos = 0 then Config.keysIn s.frameNo else s.keys
    frameNo := if s.framePos = 0 then s.frameNo + 1 else s.frameNo }

/-- The step just taken was the last of its frame (R176, R177). -/
def State.frameDone (s : State) : Bool := Config.ipf ≤ s.framePos + 1

/-- What the protocol does after a step that left the run running: it counts the step, and after the last one of the
frame it ticks the timers and offers the redraw (R176). Written field by field, so that the fields that do not depend
on `IPF` are those of the step. A stopped run's frame is not performed further (R169, R176). -/
def State.frameEnd (s : State) : State :=
  let done := s.status == .running && s.frameDone
  { s with
    framePos := if s.status = .running then (if s.frameDone then 0 else s.framePos + 1) else s.framePos
    dt := if done then tickDown s.dt else s.dt
    st := if done then tickDown s.st else s.st
    dirty := if done then false else s.dirty
    redraws := if done && s.dirty then s.redraws + 1 else s.redraws }

/-- One step of the machine: one `Step` (R78) of the frame protocol (R176). A stopped run never changes (R169). -/
def cycle (s : State) : Result :=
  if s.status ≠ .running then .next s
  else
    match coreStep s.frameBegin with
    | .next t => .next t.frameEnd
    | .fault r => .fault r
    | .refused r => .refused r

/-! ## Initialization -/

/-- `M[a + i] <- bytes[i]` for each `i` (R191). -/
def Memory.load : List Byte → Nat → Memory → Memory
  | [], _, m => m
  | u :: us, a, m => Memory.load us (a + 1) (m.write a u)

/-- Where the ROM is copied (R191). -/
def programStart : Nat := 0x200

/-- Every byte of memory 0x00 (R191, D5). Of the bytes that read otherwise when unlisted, those of the default font, each
is written. -/
def Memory.zeroed : Memory := Memory.load (List.replicate 80 0x00#8) fontBase []

/-- The memory image of R191, in its order: zeros, then the font, then the ROM. -/
def Memory.image (rom : List Byte) (fnt : Font) : Memory :=
  Memory.load rom programStart (Memory.load fnt.glyphs.toList fnt.base.val Memory.zeroed)

/-- `Initialize(rom, cfg)` (R191), with the font configuration of R8 beside `cfg`, the default one where none is given:
the state of R42 with the memory image of the font and the ROM; a ROM that does not fit is refused (R193). -/
def initMachine (rom : List Byte) (cfg : Cfg) (fnt : Font := standardFont) : Result :=
  if Rom.wellFormed rom then
    .next { State.reset with cfg := cfg, fontBase := fnt.base, mem := Memory.image rom fnt }
  else .refused .romTooLong

/-- Store an instruction's two bytes where the next step fetches (R71). -/
def State.placeWord (s : State) (w : Word) : State :=
  (s.memWrite s.pc.toNat (wordHi w)).memWrite (s.pc.toNat + 1) (wordLo w)

end Sys2Proof.Machine
end

