-- ==== Sys2Proof/Machine/Step.lean ====
section
/-! DEFINITION. The step of the machine. -/

namespace Sys2Proof.Machine

/-- One step: one `Step` of the running frame (spec/30_encoding.md R78, spec/60_exceptions.md R176). -/
def step (s : State) : Host.Outcome State Fault Refusal := cycle s

/-- The state with the opcode table's word stored where the next step fetches; it stands for the ROM loader (log 13). -/
def State.withFetchWord (s : State) (nbits w : Nat) : State := s.placeWord (tableWord nbits w)

end Sys2Proof.Machine
end

