-- ==== Sys2Proof/Safety.lean ====
section
/-! DEFINITION. The terms in which claims are made: what an instruction leaves unchanged, what a safe run is, and the
invariants of the machine. -/

namespace Sys2Proof.Machine

/-! ## Frames. Each says that every field but the named ones is the old one, and says so of memory through the read of
one byte. -/

/-- Every byte of memory reads as before. -/
def SameBytes (s t : State) : Prop := ∀ a, t.mem.read a = s.mem.read a

/-- Only general registers changed, and of them only those that `w` admits. -/
def OnlyRegs (w : Reg → Prop) (s t : State) : Prop :=
  t = { s with v := t.v } ∧ (∀ r, ¬ w r → t.reg r = s.reg r) ∧ SameBytes s t

/-- Only `PC` changed. -/
def OnlyPC (s t : State) : Prop := t = { s with pc := t.pc } ∧ SameBytes s t

/-- Only `I` changed. -/
def OnlyIndex (s t : State) : Prop := t = { s with i := t.i } ∧ SameBytes s t

/-- Only memory changed, and of it only the bytes that `w` admits. -/
def OnlyBytes (w : Nat → Prop) (s t : State) : Prop :=
  t = { s with mem := t.mem } ∧ ∀ a, ¬ w a → t.mem.read a = s.mem.read a

/-! ## What a drawing covers (spec/40_display.md R92) -/

/-- The pixel in row `py`, column `px` is under a set bit of the `n`-row sprite at `I` whose first pixel is in row
`y0 < 32`, column `x0 < 64`: row `r` of the sprite is `r` rows below `y0` and bit `7 - c` is `c` columns right of `x0`,
both with wraparound. The byte of row `r` is the one in memory at `I + r`, not reduced, and 0x00 where `I + r` is past
the end of memory (spec/20_memory.md R52). -/
def spriteCovers (s : State) (n x0 y0 : Nat) (py : Fin 32) (px : Fin 64) : Bool :=
  let r := (py.val + 32 - y0) % 32
  let c := (px.val + 64 - x0) % 64
  let bits : Byte := if 4096 ≤ s.i.toNat + r then 0x00#8 else s.mem.read (s.i.toNat + r)
  decide (r < n) && (decide (c < 8) && bits.getLsbD (7 - c))

end Sys2Proof.Machine

namespace Sys2Proof

/-! ## Which state an instruction writes or reads, by the spec's lists -/

/-- The instruction's ordinary destination register, where it has one (spec/10_state.md R22): `V[x]` for a single
destination; Fx65 loads `V[0]` to `V[x]`. -/
def Instr.writesReg (i : Instr) (r : Reg) : Bool :=
  match i with
  | .loadImm x _ | .addImm x _ | .random x _ | .readDelay x => r == x
  | .move x _ | .or x _ | .and x _ | .xor x _ => r == x
  | .add x _ | .sub x _ | .shr x _ | .subn x _ | .shl x _ => r == x
  | .loadRegs x => decide (r.toNat ≤ x.toNat)
  | _ => false

/-- The instruction writes VF as a flag (spec/10_state.md R21). -/
def Instr.writesFlag (i : Instr) : Bool :=
  match i with
  | .add .. | .sub .. | .shr .. | .subn .. | .shl .. | .draw .. => true
  | _ => false

/-- The instruction writes the display surface (spec/10_state.md R31). -/
def Instr.drawsDisplay (i : Instr) : Bool :=
  match i with
  | .clear | .draw .. => true
  | _ => false

/-- The instruction writes memory (spec/20_memory.md R56). -/
def Instr.storesBytes (i : Instr) : Bool :=
  match i with
  | .bcd .. | .storeRegs .. => true
  | _ => false

/-- The instruction reads the input snapshot (spec/10_state.md R33). -/
def Instr.readsKeys (i : Instr) : Bool :=
  match i with
  | .skipIfKey .. | .skipIfNotKey .. => true
  | _ => false

/-- The instruction writes the sound timer (spec/10_state.md R30). -/
def Instr.writesSound (i : Instr) : Bool :=
  match i with
  | .setSound .. => true
  | _ => false

/-- The instruction takes a random byte (spec/43_alu.md R131). -/
def Instr.drawsRandom (i : Instr) : Bool :=
  match i with
  | .random .. => true
  | _ => false

end Sys2Proof

namespace Sys2Proof.Machine

/-! ## Safe runs -/

/-- The run has not stopped (R35). -/
def State.running (s : State) : Prop := s.status = .running

/-- No word outside the opcode map has been executed: the premise that R77 offers to claims. -/
def State.noUnrecognized (s : State) : Prop := ∀ a w, Report.unrecognizedOpcode a w ∉ s.log

/-- A safe run so far: it is running or has ended normally (spec/70_reset_and_hazards.md R195), and no unrecognized word
has been executed. -/
def State.safe (s : State) : Prop := (∀ f, s.status ≠ .faulted f) ∧ s.noUnrecognized

/-! ## Invariants -/

/-- `PC` and every valid stack entry (R27: those below `SP`) are in the ranges that spec/10_state.md R26 derives. -/
def State.pcBounded (s : State) : Prop :=
  s.pc.toNat ≤ 0x10FE ∧ ∀ k : Fin 16, k.val < s.sp.val → s.stack[k].toNat ≤ 0x1000

/-- The cause of a stop is one the spec names, in the state `s` in which the step began (spec/60_exceptions.md R161 to
R166), and it is the one recorded. -/
def StopCause (s : State) : Status → Prop
  | .running => False
  | .halted (.outOfBoundsFetch a) => memSize ≤ s.pc.toNat ∧ a = s.pc
  | .faulted (.fetchStraddlesEnd a) => s.pc = 0xFFF#16 ∧ a = s.pc
  | .faulted (.stackUnderflow a w) => decode s.fetchWord = .ok .ret ∧ s.sp.val = 0 ∧ a = s.pc ∧ w = s.fetchWord
  | .faulted (.keyIndexOutOfRange a w k) =>
    ∃ x, (decode s.fetchWord = .ok (.skipIfKey x) ∨ decode s.fetchWord = .ok (.skipIfNotKey x)) ∧
      k = s.reg x ∧ 16 ≤ k.toNat ∧ a = s.pc ∧ w = s.fetchWord

/-- The step about to be taken belongs to a frame of `IPF` steps (spec/60_exceptions.md R176). -/
def State.inFrame (s : State) : Prop := s.framePos < Config.ipf

/-- `LOG` only grows (R168). -/
def LogGrows (s t : State) : Prop := ∃ more, t.log = s.log ++ more

end Sys2Proof.Machine
end

