-- ==== Sys2Proof/Certificates/Slice0/Obligations.lean ====
section
/-! DEFINITION. The statements for the provers. A meaning is stated about `exec i s`, where `s` is the state after the
fetch and the `PC` advance (spec/30_encoding.md R78), so `s.pc - 2` is the instruction's own address; the statements of
the step say how `exec` is reached. Frames are the predicates of Sys2Proof/Safety.lean. -/

open Sys2Proof Sys2Proof.Machine

/-! ## Encoding and decoding -/

/-- One word of each family, written out from the encodings of R73 and R79, is the instruction it stands for, and the
words Fx0A, 0nnn and 5xy1 are unrecognized (R77). -/
def Obligations.TableWordsDecode : Prop :=
  decode 0b0000_0000_1110_0000#16 = .ok .clear ∧ decode 0b0010_0010_0001_0000#16 = .ok (.call 0x210) ∧
  decode 0b0011_0011_0001_0010#16 = .ok (.skipIfEqImm 3 0x12) ∧
  decode 0b1000_0001_0010_0101#16 = .ok (.sub 1 2) ∧ decode 0b1010_0011_0000_0000#16 = .ok (.loadIndex 0x300) ∧
  decode 0b1101_0000_0001_0101#16 = .ok (.draw 0 1 5) ∧ decode 0b1110_0101_1010_0001#16 = .ok (.skipIfNotKey 5) ∧
  decode 0b1111_0001_0000_0111#16 = .ok (.readDelay 1) ∧
  decode 0xF00A#16 = .error (.unrecognized 0xF00A#16) ∧ decode 0x0123#16 = .error (.unrecognized 0x0123#16) ∧
  decode 0x5121#16 = .error (.unrecognized 0x5121#16)

/-- Decoding the word, or the bytes in memory order, of any instruction gives it back, with the rest of the bytes. -/
def Obligations.DecodeOfEncode : Prop :=
  ∀ (i : Instr) (rest : List Byte),
    decode (encode i) = .ok i ∧ decodeBytes (encodeBytes i ++ rest) = .ok (i, rest)

/-- Re-encoding a decoded instruction with its fields reproduces the word exactly (R84). -/
def Obligations.EncodeOfDecode : Prop := ∀ (w : Word) (i : Instr), decode w = .ok i → encode i = w

/-- The decoder accepts exactly the words of the opcode map, and rejects every other word by name (R76, R80). -/
def Obligations.DecodeAcceptsExactlyTheTable : Prop :=
  ∀ w : Word, (Word.wellFormed w = true → ∃ i, decode w = .ok i) ∧
    (Word.wellFormed w = false → decode w = .error (.unrecognized w))

/-- A decoded word matches the row of its instruction, and no other row of the opcode map (R76: "No two rows match the
same word"). -/
def Obligations.DecodedWordMatchesOneRow : Prop :=
  ∀ (w : Word) (i : Instr), decode w = .ok i →
    i.row ∈ opTable ∧ i.row.matches w = true ∧ ∀ r ∈ opTable, r.matches w = true → r = i.row

/-! ## The step -/

/-- When the two bytes at `PC` decode to an instruction, the core's step is the instruction's meaning after the `PC`
advance (R78). That a step of the machine is that with the frame protocol's opening before it and its closing after it
is the model's choice (log 5), and so is that `exec` takes the advanced state (log 15). -/
def Obligations.StepRunsDecodedInstruction : Prop :=
  ∀ (s : State) (i : Instr), s.status = .running → s.pc.toNat ≤ 0xFFE → decode s.fetchWord = .ok i →
    coreStep s = exec i (s.setPC (s.pc + 2)) ∧
    ∃ t, exec i (s.frameBegin.setPC (s.pc + 2)) = .next t ∧ step s = .next t.frameEnd

/-- An unrecognized word advances `PC`, appends one UnrecognizedOpcode report (code 4) with its address and itself, and
changes nothing else. The report is the spec's decision D14 and its code D15 (log 19). -/
def Obligations.UnrecognizedWordIsReportedNoOp : Prop :=
  ∀ (s : State) (r : Reject), s.status = .running → s.pc.toNat ≤ 0xFFE → decode s.fetchWord = .error r →
    coreStep s =
      .next { s with pc := s.pc + 2, log := s.log ++ [.unrecognizedOpcode s.pc s.fetchWord] } ∧
    (Report.unrecognizedOpcode s.pc s.fetchWord).code = 4

/-- A step that begins with `PC ≥ 0x1000` halts the run (code 3), one that begins with `PC = 0xFFF` faults it (code 5);
neither changes anything but `STATUS`. The fault at 0xFFF is the spec's decision D11 and the codes D15 (log 19),
the recorded address of the halt is the model's reading of R161 (log 8), and that a stop is a next state is the model's
choice (log 7). -/
def Obligations.FetchPastEndStopsRun : Prop :=
  ∀ s : State, s.status = .running →
    (0x1000 ≤ s.pc.toNat →
      coreStep s = .next { s with status := .halted (.outOfBoundsFetch s.pc) }) ∧
    (s.pc = 0xFFF#16 → coreStep s = .next { s with status := .faulted (.fetchStraddlesEnd 0xFFF#16) }) ∧
    (HaltCause.outOfBoundsFetch s.pc).code = 3 ∧ (Fault.fetchStraddlesEnd s.pc).code = 5

/-- Once `STATUS` is not `Running`, no number of steps, and no `Frame`, changes anything: the spec's
decisions D13 and D19 (log 19). That the step of a stopped run answers that state is the model's choice (log 7). -/
def Obligations.StoppedRunNeverChanges : Prop :=
  ∀ s : State, s.status ≠ .running →
    (∀ n, core.run n s = .next s) ∧ coreStep s = .next s ∧ ∀ n ks, frame n ks s = .next s

/-- The step is total: it answers a next state from every state. A fault or a halt of the core is a next state too, with
`STATUS` written, which is the model's choice (log 7). -/
def Obligations.EveryStepAnswersNext : Prop :=
  ∀ s : State, (∃ t, step s = .next t) ∧ ∃ t, coreStep s = .next t

/-- A run stops only for a cause the spec names, in the state in which that step began, and records it (the conditions
of R161 to R166, in the order of R170; the spec's decisions D11 to D13 and D15, log 19; the records, log 8; a stop as a
next state, log 7). -/
def Obligations.StopsOnlyForNamedCauses : Prop :=
  ∀ s t : State, s.status = .running → step s = .next t → t.status ≠ .running → StopCause s t.status

/-! ## Register and ALU instructions -/

/-- load-imm (R120). -/
def Obligations.LoadImmSetsRegister : Prop :=
  ∀ (x : Reg) (kk : Byte) (s : State),
    decode (0b0110#4 ++ x ++ kk) = .ok (.loadImm x kk) ∧
    ∃ t, exec (.loadImm x kk) s = .next t ∧ t.reg x = kk ∧ OnlyRegs (fun r => r = x) s t

/-- add-imm (R121): modulo 256, VF unchanged unless it is the destination. -/
def Obligations.AddImmWrapsWithoutFlag : Prop :=
  ∀ (x : Reg) (kk : Byte) (s : State),
    decode (0b0111#4 ++ x ++ kk) = .ok (.addImm x kk) ∧
    ∃ t, exec (.addImm x kk) s = .next t ∧ (t.reg x).toNat = ((s.reg x).toNat + kk.toNat) % 256 ∧
      OnlyRegs (fun r => r = x) s t

/-- move (R122). -/
def Obligations.MoveCopiesRegister : Prop :=
  ∀ (x y : Reg) (s : State),
    decode (0b1000#4 ++ x ++ y ++ 0b0000#4) = .ok (.move x y) ∧
    ∃ t, exec (.move x y) s = .next t ∧ t.reg x = s.reg y ∧ (x = y → t = s) ∧ OnlyRegs (fun r => r = x) s t

/-- or, and, xor (R123, R124, R125), bit by bit; VF unchanged unless it is the destination. -/
def Obligations.LogicCombinesBits : Prop :=
  ∀ (x y : Reg) (s : State),
    (∃ t, exec (.or x y) s = .next t ∧ OnlyRegs (fun r => r = x) s t ∧
      ∀ k, (t.reg x).getLsbD k = ((s.reg x).getLsbD k || (s.reg y).getLsbD k)) ∧
    (∃ t, exec (.and x y) s = .next t ∧ OnlyRegs (fun r => r = x) s t ∧
      ∀ k, (t.reg x).getLsbD k = ((s.reg x).getLsbD k && (s.reg y).getLsbD k)) ∧
    (∃ t, exec (.xor x y) s = .next t ∧ OnlyRegs (fun r => r = x) s t ∧
      ∀ k, (t.reg x).getLsbD k = ((s.reg x).getLsbD k ^^ (s.reg y).getLsbD k))

/-- add (R126): the sum of the old values modulo 256, and the carry in VF unless the sum is written there. -/
def Obligations.AddSetsCarryThenSum : Prop :=
  ∀ (x y : Reg) (s : State),
    decode (0b1000#4 ++ x ++ y ++ 0b0100#4) = .ok (.add x y) ∧
    ∃ t, exec (.add x y) s = .next t ∧
      (t.reg x).toNat = ((s.reg x).toNat + (s.reg y).toNat) % 256 ∧
      (x ≠ regF → t.reg regF = if (s.reg x).toNat + (s.reg y).toNat > 255 then 1 else 0) ∧
      OnlyRegs (fun r => r = x ∨ r = regF) s t

/-- sub (R127): VF is the strict comparison of the old values; the difference, modulo 256, is taken after VF is written,
so an operand that is VF counts as the new flag. -/
def Obligations.SubSetsFlagThenDifference : Prop :=
  ∀ (x y : Reg) (s : State),
    let flag : Nat := if (s.reg x).toNat > (s.reg y).toNat then 1 else 0
    decode (0b1000#4 ++ x ++ y ++ 0b0101#4) = .ok (.sub x y) ∧
    ∃ t, exec (.sub x y) s = .next t ∧
      (x ≠ regF → (t.reg regF).toNat = flag) ∧
      (x ≠ regF → y ≠ regF → (t.reg x).toNat = ((s.reg x).toNat + 256 - (s.reg y).toNat) % 256) ∧
      (x ≠ regF → y = regF → (t.reg x).toNat = ((s.reg x).toNat + 256 - flag) % 256) ∧
      (x = regF → y ≠ regF → (t.reg x).toNat = (flag + 256 - (s.reg y).toNat) % 256) ∧
      (x = y → (t.reg x).toNat = 0) ∧
      OnlyRegs (fun r => r = x ∨ r = regF) s t

/-- subn (R129): as sub with the operands exchanged. -/
def Obligations.SubnSetsFlagThenDifference : Prop :=
  ∀ (x y : Reg) (s : State),
    let flag : Nat := if (s.reg y).toNat > (s.reg x).toNat then 1 else 0
    decode (0b1000#4 ++ x ++ y ++ 0b0111#4) = .ok (.subn x y) ∧
    ∃ t, exec (.subn x y) s = .next t ∧
      (x ≠ regF → (t.reg regF).toNat = flag) ∧
      (x ≠ regF → y ≠ regF → (t.reg x).toNat = ((s.reg y).toNat + 256 - (s.reg x).toNat) % 256) ∧
      (x ≠ regF → y = regF → (t.reg x).toNat = (flag + 256 - (s.reg x).toNat) % 256) ∧
      (x = regF → y ≠ regF → (t.reg x).toNat = ((s.reg y).toNat + 256 - flag) % 256) ∧
      (x = y → (t.reg x).toNat = 0) ∧
      OnlyRegs (fun r => r = x ∨ r = regF) s t

/-- shr (R128): the value shifted is `V[y]` when `LEGACY_SHIFT` is set, else `V[x]`; VF is its bit 0; the result is its
half, or 0 when the destination is VF. -/
def Obligations.ShrShiftsLowBitOut : Prop :=
  ∀ (x y : Reg) (s : State),
    let u := (if s.cfg.legacyShift = true then s.reg y else s.reg x).toNat
    decode (0b1000#4 ++ x ++ y ++ 0b0110#4) = .ok (.shr x y) ∧
    ∃ t, exec (.shr x y) s = .next t ∧
      (x ≠ regF → (t.reg regF).toNat = u % 2 ∧ (t.reg x).toNat = u / 2) ∧
      (x = regF → t.reg regF = 0) ∧
      OnlyRegs (fun r => r = x ∨ r = regF) s t

/-- shl (R130): the value shifted is `V[y]` when `LEGACY_SHIFT` is set, else `V[x]`; VF is its bit 7; the result is its
double modulo 256, or twice the flag when the destination is VF. -/
def Obligations.ShlShiftsHighBitOut : Prop :=
  ∀ (x y : Reg) (s : State),
    let u := (if s.cfg.legacyShift = true then s.reg y else s.reg x).toNat
    decode (0b1000#4 ++ x ++ y ++ 0b1110#4) = .ok (.shl x y) ∧
    ∃ t, exec (.shl x y) s = .next t ∧
      (x ≠ regF → (t.reg regF).toNat = u / 128 ∧ (t.reg x).toNat = u * 2 % 256) ∧
      (x = regF → (t.reg regF).toNat = 2 * (u / 128)) ∧
      OnlyRegs (fun r => r = x ∨ r = regF) s t

/-- random (R131, D16): the free byte of this draw, masked; the next draw is a fresh one. The counter `drawNo` and the
free constant `Config.rndIn` are the model's form of `rnd_in` (log 4); nothing is assumed of the byte. -/
def Obligations.RandomMasksOneDraw : Prop :=
  ∀ (x : Reg) (kk : Byte) (s : State),
    ∃ t, exec (.random x kk) s = .next t ∧ t.reg x = Config.rndIn s.drawNo &&& kk ∧ t.drawNo = s.drawNo + 1 ∧
      (kk = 0 → t.reg x = 0) ∧ OnlyRegs (fun r => r = x) { s with drawNo := s.drawNo + 1 } t

/-! ## Conditional skips -/

/-- skip-if-eq-imm and skip-if-ne-imm (R111, R112): exact complements; nothing but `PC` changes. -/
def Obligations.ImmediateSkipsTestEquality : Prop :=
  ∀ (x : Reg) (kk : Byte) (s : State),
    decode (0b0011#4 ++ x ++ kk) = .ok (.skipIfEqImm x kk) ∧ decode (0b0100#4 ++ x ++ kk) = .ok (.skipIfNeImm x kk) ∧
    (∃ t, exec (.skipIfEqImm x kk) s = .next t ∧ OnlyPC s t ∧
      (s.reg x = kk → t.pc = s.pc + 2) ∧ (s.reg x ≠ kk → t.pc = s.pc)) ∧
    (∃ t, exec (.skipIfNeImm x kk) s = .next t ∧ OnlyPC s t ∧
      (s.reg x = kk → t.pc = s.pc) ∧ (s.reg x ≠ kk → t.pc = s.pc + 2))

/-- skip-if-eq-reg and skip-if-ne-reg (R113, R114); the words with a non-zero low nibble are unrecognized. -/
def Obligations.RegisterSkipsTestEquality : Prop :=
  ∀ (x y : Reg) (n : Nibble) (s : State),
    decode (0b0101#4 ++ x ++ y ++ 0#4) = .ok (.skipIfEqReg x y) ∧
    decode (0b1001#4 ++ x ++ y ++ 0#4) = .ok (.skipIfNeReg x y) ∧
    (n ≠ 0 → decode (0b0101#4 ++ x ++ y ++ n) = .error (.unrecognized (0b0101#4 ++ x ++ y ++ n)) ∧
      decode (0b1001#4 ++ x ++ y ++ n) = .error (.unrecognized (0b1001#4 ++ x ++ y ++ n))) ∧
    (∃ t, exec (.skipIfEqReg x y) s = .next t ∧ OnlyPC s t ∧
      (s.reg x = s.reg y → t.pc = s.pc + 2) ∧ (s.reg x ≠ s.reg y → t.pc = s.pc)) ∧
    (∃ t, exec (.skipIfNeReg x y) s = .next t ∧ OnlyPC s t ∧
      (s.reg x = s.reg y → t.pc = s.pc) ∧ (s.reg x ≠ s.reg y → t.pc = s.pc + 2))

/-- skip-if-key and skip-if-not-key on a key number the snapshot has (R115, R116, R117). -/
def Obligations.KeySkipsTestSnapshot : Prop :=
  ∀ (x : Reg) (s : State), (s.reg x).toNat < 16 →
    (∃ t, exec (.skipIfKey x) s = .next t ∧ OnlyPC s t ∧
      (s.keys.getLsbD (s.reg x).toNat = true → t.pc = s.pc + 2) ∧
      (s.keys.getLsbD (s.reg x).toNat = false → t.pc = s.pc)) ∧
    (∃ t, exec (.skipIfNotKey x) s = .next t ∧ OnlyPC s t ∧
      (s.keys.getLsbD (s.reg x).toNat = true → t.pc = s.pc) ∧
      (s.keys.getLsbD (s.reg x).toNat = false → t.pc = s.pc + 2))

/-- skip-if-key and skip-if-not-key on a key number of 16 or more fault (code 6), recording the address, the word and
the value, with `PC` left advanced and nothing but `STATUS` changed: the spec's decisions D12 and D15 (log 19). The
recorded address is `PC` less 2 of the advanced state (log 15), and the fault is a next state (log 7). -/
def Obligations.KeyNumberPastSnapshotFaults : Prop :=
  ∀ (x : Reg) (s : State), 16 ≤ (s.reg x).toNat →
    exec (.skipIfKey x) s =
      .next { s with status := .faulted (.keyIndexOutOfRange (s.pc - 2) (0b1110#4 ++ x ++ 0x9E#8) (s.reg x)) } ∧
    exec (.skipIfNotKey x) s =
      .next { s with status := .faulted (.keyIndexOutOfRange (s.pc - 2) (0b1110#4 ++ x ++ 0xA1#8) (s.reg x)) } ∧
    (Fault.keyIndexOutOfRange (s.pc - 2) (0b1110#4 ++ x ++ 0x9E#8) (s.reg x)).code = 6

/-! ## Control flow -/

/-- jump (R101): the 12-bit target, zero-extended; nothing but `PC` changes. -/
def Obligations.JumpGoesToTarget : Prop :=
  ∀ (nnn : Addr12) (s : State),
    decode (0b0001#4 ++ nnn) = .ok (.jump nnn) ∧
    ∃ t, exec (.jump nnn) s = .next t ∧ t.pc.toNat = nnn.toNat ∧ OnlyPC s t

/-- call (R102) with room on the stack: the advanced `PC` is pushed on top, the other entries stay, and `PC` is the
target. With 16 entries on the stack: StackOverflow (code 1, R162), a report and no other effect. The 16-bit entry is the
spec's decision D24, the code and the record D15 (log 19); the recorded address is `PC` less 2 of the advanced state and
the recorded word the instruction's encoding (log 15). -/
def Obligations.CallPushesOrReportsOverflow : Prop :=
  ∀ (nnn : Addr12) (s : State),
    decode (0b0010#4 ++ nnn) = .ok (.call nnn) ∧
    (s.sp.val < 16 → ∃ t, exec (.call nnn) s = .next t ∧ t.pc.toNat = nnn.toNat ∧ t.sp.val = s.sp.val + 1 ∧
      (∀ k : Fin 16, t.stack[k] = if k.val = s.sp.val then s.pc else s.stack[k]) ∧
      t = { s with pc := t.pc, sp := t.sp, stack := t.stack } ∧ SameBytes s t) ∧
    (s.sp.val = 16 →
      exec (.call nnn) s =
        .next { s with log := s.log ++ [.stackOverflow (s.pc - 2) (0b0010#4 ++ nnn) nnn] }) ∧
    (Report.stackOverflow (s.pc - 2) (0b0010#4 ++ nnn) nnn).code = 1

/-- return (R100) with an entry on the stack: `PC` is the top entry and the depth falls by one; no entry is erased.
With an empty stack: StackUnderflow (code 2), with `PC` left advanced and nothing but `STATUS` changed, the spec's
decisions D13 and D15 (log 19). The 16-bit entry is its decision D24 (log 19), the recorded address and word are those of
log 15, and the fault is a next state (log 7). -/
def Obligations.ReturnPopsOrFaults : Prop :=
  ∀ s : State,
    decode 0x00EE#16 = .ok .ret ∧
    (∀ k : Fin 16, s.sp.val = k.val + 1 → ∃ t, exec .ret s = .next t ∧ t.pc = s.stack[k] ∧ t.sp.val = k.val ∧
      t = { s with pc := t.pc, sp := t.sp } ∧ SameBytes s t) ∧
    (s.sp.val = 0 →
      exec .ret s = .next { s with status := .faulted (.stackUnderflow (s.pc - 2) 0x00EE#16) }) ∧
    (Fault.stackUnderflow (s.pc - 2) 0x00EE#16).code = 2

/-- A return that runs on the stack a call left resumes after the call, at the depth before it. The entry holds all
16 bits of `PC`, the spec's decision D24 (log 19). -/
def Obligations.ReturnResumesAfterCall : Prop :=
  ∀ (nnn : Addr12) (s : State), s.sp.val < 16 →
    ∃ t, exec (.call nnn) s = .next t ∧
      ∀ u : State, u.stack = t.stack → u.sp = t.sp →
        ∃ v, exec .ret u = .next v ∧ v.pc = s.pc ∧ v.sp = s.sp

/-- jump-offset (R103, R75; the modern reading is the spec's, GK5, log 18): `nnn + V[0]` in legacy mode, `kk + V[x]`
in modern mode, neither reduced to 12 bits; nothing but `PC` changes. -/
def Obligations.JumpOffsetAddsRegister : Prop :=
  ∀ (nnn : Addr12) (s : State),
    decode (0b1011#4 ++ nnn) = .ok (.jumpOffset nnn) ∧
    ∃ t, exec (.jumpOffset nnn) s = .next t ∧ OnlyPC s t ∧
      (s.cfg.legacyJump = true → t.pc.toNat = nnn.toNat + (s.reg 0).toNat) ∧
      (s.cfg.legacyJump = false →
        t.pc.toNat = nnn.toNat % 256 + (s.reg (BitVec.ofNat 4 (nnn.toNat / 256))).toNat)

/-! ## Index register and memory -/

/-- load-index (R140): the upper 4 bits of `I` become 0. -/
def Obligations.LoadIndexSetsIndex : Prop :=
  ∀ (nnn : Addr12) (s : State),
    decode (0b1010#4 ++ nnn) = .ok (.loadIndex nnn) ∧
    ∃ t, exec (.loadIndex nnn) s = .next t ∧ t.i.toNat = nnn.toNat ∧ OnlyIndex s t

/-- add-index (R141) wraps at 2^16, the spec's decision D9 (log 19), and changes no flag; font-char (R142) points `I` at
glyph `V[x]`, unmasked, from the configured font base (R8; the state holds it, log 21). -/
def Obligations.IndexArithmetic : Prop :=
  ∀ (x : Reg) (s : State),
    (∃ t, exec (.addIndex x) s = .next t ∧ t.i.toNat = (s.i.toNat + (s.reg x).toNat) % 65536 ∧ OnlyIndex s t) ∧
    (∃ t, exec (.fontChar x) s = .next t ∧ t.i.toNat = s.fontBase.val + (s.reg x).toNat * 5 ∧ OnlyIndex s t)

/-- bcd (R143): the decimal digits at `I`, `I + 1`, `I + 2`, each address reduced modulo 4096, and no other byte. -/
def Obligations.BcdStoresDecimalDigits : Prop :=
  ∀ (x : Reg) (s : State), s.mem.wf →
    decode (0b1111#4 ++ x ++ 0x33#8) = .ok (.bcd x) ∧
    ∃ t, exec (.bcd x) s = .next t ∧
      (t.memRead (s.dataAddr 0)).toNat = (s.reg x).toNat / 100 ∧
      (t.memRead (s.dataAddr 1)).toNat = (s.reg x).toNat / 10 % 10 ∧
      (t.memRead (s.dataAddr 2)).toNat = (s.reg x).toNat % 10 ∧
      OnlyBytes (fun a => ∃ k, k < 3 ∧ a = s.dataAddr k % memSize) s t

/-- store-regs (R144): `V[0]` to `V[x]` at `I` and up, each address reduced modulo 4096, and no other byte;
`LEGACY_MEMORY` advances `I` by the count copied, after the stores; the sum is modulo 2^16 and not reduced to 12 bits, the
spec's decision D9 (log 19). -/
def Obligations.StoreRegsCopiesToMemory : Prop :=
  ∀ (x : Reg) (s : State), s.mem.wf →
    decode (0b1111#4 ++ x ++ 0x55#8) = .ok (.storeRegs x) ∧
    ∃ t, exec (.storeRegs x) s = .next t ∧
      (∀ r : Reg, r.toNat ≤ x.toNat → t.memRead (s.dataAddr r.toNat) = s.reg r) ∧
      t.i.toNat = (if s.cfg.legacyMemory = true then (s.i.toNat + x.toNat + 1) % 65536 else s.i.toNat) ∧
      t = { s with mem := t.mem, i := t.i } ∧
      ∀ a, (¬ ∃ k, k ≤ x.toNat ∧ a = s.dataAddr k % memSize) → t.mem.read a = s.mem.read a

/-- load-regs (R145): `V[0]` to `V[x]` from `I` and up, each address reduced modulo 4096; `I` is unchanged in both
modes. -/
def Obligations.LoadRegsCopiesFromMemory : Prop :=
  ∀ (x : Reg) (s : State),
    decode (0b1111#4 ++ x ++ 0x65#8) = .ok (.loadRegs x) ∧
    ∃ t, exec (.loadRegs x) s = .next t ∧
      (∀ r : Reg, r.toNat ≤ x.toNat → t.reg r = s.memRead (s.dataAddr r.toNat)) ∧
      t.i = s.i ∧ OnlyRegs (fun r => r.toNat ≤ x.toNat) s t

/-- Storing registers and loading them back with the same memory and the same `I` restores them, whatever the registers
hold in between (R145's example, spec/95_test_vectors.md L1-6). -/
def Obligations.StoreThenLoadRestores : Prop :=
  ∀ (x : Reg) (s : State), s.mem.wf →
    ∃ t, exec (.storeRegs x) s = .next t ∧
      ∀ u : State, u.mem = t.mem → u.i = s.i →
        ∃ v, exec (.loadRegs x) u = .next v ∧ ∀ r : Reg, r.toNat ≤ x.toNat → v.reg r = s.reg r

/-! ## Display -/

/-- clear (R91): every pixel 0, `DIRTY` set, nothing else changed; no other `0nnn` word than 00E0 and 00EE is an
instruction. -/
def Obligations.ClearBlanksSurface : Prop :=
  ∀ s : State,
    decode 0x00E0#16 = .ok .clear ∧
    (∀ nnn : Addr12, nnn ≠ 0x0E0 → nnn ≠ 0x0EE → decode (0b0000#4 ++ nnn) = .error (.unrecognized (0b0000#4 ++ nnn))) ∧
    ∃ t, exec .clear s = .next t ∧ (∀ y x, t.fb.pixel y x = false) ∧ t.dirty = true ∧
      t = { s with fb := t.fb, dirty := t.dirty } ∧ SameBytes s t

/-- draw (R92): exactly the pixels under a set bit of the sprite, wrapped around both edges, are inverted; VF is 1 if
one of them was set and 0 otherwise; `DIRTY` is set; nothing else changes. The coordinates are the old values, so VF
may be one of them. The byte of row `r` is the one in memory at `I + r`, not reduced, and 0x00 where `I + r` is past the end
of memory (R52). The bit order is the spec's decision D8 and the case of no rows D20 (log 19). -/
def Obligations.DrawXorsSprite : Prop :=
  ∀ (x y : Reg) (n : Nibble) (s : State),
    let covers := spriteCovers s n.toNat ((s.reg x).toNat % 64) ((s.reg y).toNat % 32)
    ∃ t, exec (.draw x y n) s = .next t ∧
      (∀ py px, t.fb.pixel py px = (s.fb.pixel py px ^^ covers py px)) ∧
      ((∃ py px, covers py px = true ∧ s.fb.pixel py px = true) → t.reg regF = 1) ∧
      ((∀ py px, covers py px = true → s.fb.pixel py px = false) → t.reg regF = 0) ∧
      t.dirty = true ∧ t = { s with v := t.v, fb := t.fb, dirty := t.dirty } ∧
      (∀ r, r ≠ regF → t.reg r = s.reg r) ∧ SameBytes s t

/-- Drawing a sprite twice at the same coordinates restores every pixel (spec/90_conflicts.md C7); on a blank surface
the first drawing reports no collision, and the second reports one exactly when the sprite has a set bit.
The case of no rows is the spec's decision D20 (log 19). -/
def Obligations.DrawTwiceRestoresSurface : Prop :=
  ∀ (x y : Reg) (n : Nibble) (s : State), x ≠ regF → y ≠ regF →
    let covers := spriteCovers s n.toNat ((s.reg x).toNat % 64) ((s.reg y).toNat % 32)
    ∃ t u, exec (.draw x y n) s = .next t ∧ exec (.draw x y n) t = .next u ∧ u.fb = s.fb ∧
      (s.fb = Display.blank →
        t.reg regF = 0 ∧ ((∃ py px, covers py px = true) → u.reg regF = 1) ∧
        ((∀ py px, covers py px = false) → u.reg regF = 0))

/-! ## Timers and the frame protocol -/

/-- read-delay, set-delay and set-sound (R150, R151, R152), and `sound_on` (R175). -/
def Obligations.TimerInstructionsMoveTimers : Prop :=
  ∀ (x : Reg) (s : State),
    (∃ t, exec (.readDelay x) s = .next t ∧ t.reg x = s.dt ∧ OnlyRegs (fun r => r = x) s t) ∧
    (∃ t, exec (.setDelay x) s = .next t ∧ t.dt = s.reg x ∧ t = { s with dt := t.dt } ∧ SameBytes s t) ∧
    (∃ t, exec (.setSound x) s = .next t ∧ t.st = s.reg x ∧ (t.soundOn = true ↔ s.reg x ≠ 0) ∧
      t = { s with st := t.st } ∧ SameBytes s t)

/-- The timer tick decrements each timer by one, never below 0, and changes nothing else (R174). -/
def Obligations.TimerTickSaturates : Prop :=
  ∀ s : State, s.timerTick.dt.toNat = s.dt.toNat - 1 ∧ s.timerTick.st.toNat = s.st.toNat - 1 ∧
    s.timerTick = { s with dt := s.timerTick.dt, st := s.timerTick.st }

/-- The frame protocol around a step (R176; the stop within a frame is the spec's decision D19, log 19; the counters
and the merging of the protocol into the step are the model's, logs 3, 5, 6): a frame's first step loads the snapshot,
a later one does not; the step that completes `IPF` steps ticks the timers, then emits a redraw exactly when `DIRTY`
is set and clears it; another step only counts; a step that stops the run does none of this after it. -/
def Obligations.FrameOpensTicksAndRedraws : Prop :=
  ∀ s t : State, s.status = .running → coreStep s.frameBegin = .next t →
    s.frameBegin =
      (if s.framePos = 0 then { s with keys := Config.keysIn s.frameNo, frameNo := s.frameNo + 1 } else s) ∧
    (t.status ≠ .running → step s = .next t) ∧
    (t.status = .running → s.framePos + 1 < Config.ipf → step s = .next { t with framePos := s.framePos + 1 }) ∧
    (t.status = .running → Config.ipf ≤ s.framePos + 1 →
      step s = .next { t.timerTick with
        framePos := 0, dirty := false, redraws := if t.dirty then t.redraws + 1 else t.redraws })

/-- `IPF` steps of the machine from a frame's start are one whole `Frame()` (R176) with the frame's snapshot, state for
state when the run goes on, and up to the frame position when it stopped within the frame (logs 3 and 5). -/
def Obligations.FrameIsIpfSteps : Prop :=
  ∀ s : State, s.status = .running → s.framePos = 0 →
    ∃ t u, core.run Config.ipf s = .next t ∧
      frame Config.ipf (Config.keysIn s.frameNo) { s with frameNo := s.frameNo + 1 } = .next u ∧
      t = { u with framePos := t.framePos } ∧ (u.status = .running → t = u)

/-- `KEYS` is constant during all steps of one frame (R33): only a frame's first step changes it. A frame's first step
is the one at position 0, because a step of the machine is one Step inside the frame protocol (the model's choice, log 5);
that the count of frames stays too is about the model's own counter (log 3). -/
def Obligations.KeysConstantWithinFrame : Prop :=
  ∀ s t : State, step s = .next t → s.framePos ≠ 0 → t.keys = s.keys ∧ t.frameNo = s.frameNo

/-! ## Initialization -/

/-- The state after initialization (R42, R191) with the default font (R8, R192). The values are the spec's decisions D3 to D7
(logs 9, 10, 12), glyph 0 apart; `CFG` is the open parameter (log 2); the frame position is the model's choice (log 5); the
stack entries are not stated, since R42 gives them none. -/
def Obligations.ResetState : Prop :=
  let s := State.reset
  (∀ r, s.reg r = 0) ∧ s.i = 0 ∧ s.pc = 0x200#16 ∧ s.sp.val = 0 ∧ s.dt = 0 ∧ s.st = 0 ∧
  (∀ y x, s.fb.pixel y x = false) ∧ s.dirty = false ∧ s.keys = 0 ∧ s.status = .running ∧ s.log = [] ∧
  s.cfg = Config.cfgIn ∧ s.fontBase.val = 0x050 ∧ s.framePos = 0 ∧
  (∀ a, a < 0x050 → s.mem.read a = 0) ∧ (∀ a, 0x0A0 ≤ a → s.mem.read a = 0) ∧
  (List.range 16).map (fun d => (List.range 5).map fun r => s.mem.read (0x050 + 5 * d + r)) =
    [[0xF0, 0x90, 0x90, 0x90, 0xF0], [0x20, 0x60, 0x20, 0x20, 0x70],
     [0xF0, 0x10, 0xF0, 0x80, 0xF0], [0xF0, 0x10, 0xF0, 0x10, 0xF0],
     [0x90, 0x90, 0xF0, 0x10, 0x10], [0xF0, 0x80, 0xF0, 0x10, 0xF0],
     [0xF0, 0x80, 0xF0, 0x90, 0xF0], [0xF0, 0x10, 0x20, 0x40, 0x40],
     [0xF0, 0x90, 0xF0, 0x90, 0xF0], [0xF0, 0x90, 0xF0, 0x10, 0xF0],
     [0xF0, 0x90, 0xF0, 0x90, 0x90], [0xE0, 0x90, 0xE0, 0x90, 0xE0],
     [0xF0, 0x80, 0x80, 0x80, 0xF0], [0xE0, 0x90, 0x90, 0x90, 0xE0],
     [0xF0, 0x80, 0xF0, 0x80, 0xF0], [0xF0, 0x80, 0xF0, 0x80, 0x80]]

/-- Initialization with a ROM that fits (R191) and any font configuration (R8): the ROM's bytes from 0x200 up, the font's at
its base, 0x00 everywhere else, `CFG` and `FONT_BASE` as given, everything else as after reset, memory canonical; a longer
ROM is refused (R193). With the default font, no ROM and `cfg_in` it gives the state of reset. These are the spec's
decisions D5 to D7 and D21 (logs 9, 12, 13, 14), and the font configuration's form is the model's choice (log 21). -/
def Obligations.InitializationCopiesRom : Prop :=
  (∀ (rom : List Byte) (cfg : Cfg) (fnt : Font),
    (rom.length ≤ 3584 → ∃ t, initMachine rom cfg fnt = .next t ∧
      (∀ k (h : k < rom.length), t.mem.read (0x200 + k) = rom[k]) ∧
      (∀ k (h : k < 80), t.mem.read (fnt.base.val + k) = fnt.glyphs[k]) ∧
      (∀ a, a < fnt.base.val ∨ (fnt.base.val + 80 ≤ a ∧ a < 0x200) ∨ 0x200 + rom.length ≤ a → t.mem.read a = 0) ∧
      t.mem.wf ∧ t = { State.reset with cfg := cfg, fontBase := fnt.base, mem := t.mem }) ∧
    (3584 < rom.length → initMachine rom cfg fnt = .refused .romTooLong)) ∧
  initMachine [] Config.cfgIn = .next State.reset

/-! ## Invariants and whole-machine rules -/

/-- The state after initialization meets the invariants below. That memory lists nothing is the model's form (log 12), and
that the frame position is 0 is the model's choice (log 5). -/
def Obligations.ResetMeetsInvariants : Prop :=
  State.reset.mem.wf ∧ State.reset.pcBounded ∧ State.reset.inFrame ∧ State.reset.safe

/-- Every step keeps memory in its canonical form, so memories that read alike are equal data. The
form is the model's choice (log 12). -/
def Obligations.StepKeepsMemoryCanonical : Prop :=
  ∀ s t : State, s.mem.wf → step s = .next t → t.mem.wf

/-- Every step keeps `PC` at most 0x10FE and every valid stack entry, those below `SP`, at most 0x1000 (R26), so the 16-bit
wrap of R25 is never reached, whatever the entries at and above `SP` hold. An entry holds all 16 bits of `PC`, the spec's
decision D24 (log 19). -/
def Obligations.StepKeepsPCBounded : Prop :=
  ∀ s t : State, s.pcBounded → step s = .next t → t.pcBounded

/-- Every step keeps the frame position below `IPF` (R176). That a step of the machine counts itself in its frame is the
model's choice (log 5). -/
def Obligations.StepKeepsFramePosition : Prop :=
  ∀ s t : State, s.inFrame → step s = .next t → t.inFrame

/-- `LOG` is never cleared and only grows (R168), by at most one entry a step (R170), and neither `CFG` (R34) nor
`FONT_BASE` (R8; in the state, log 21) ever changes, over any number of steps. -/
def Obligations.LogGrowsAndConfigurationStays : Prop :=
  (∀ s t : State, step s = .next t → ∃ more, more.length ≤ 1 ∧ t.log = s.log ++ more) ∧
  ∀ (n : Nat) (s t : State), core.run n s = .next t → LogGrows s t ∧ t.cfg = s.cfg ∧ t.fontBase = s.fontBase

/-- No instruction but 00E0 and Dxyn changes the display surface or `DIRTY` (R31, R32), none but Fx33 and Fx55 changes a
byte of memory (R56), none but Fx18 changes `ST` (R30), none changes `KEYS`, `CFG` or `FONT_BASE` (R33, R34, R8).
None but Cxkk advances the count of draws, which is the model's own counter (log 4); that `FONT_BASE` is in the state is
log 21. -/
def Obligations.OnlyNamedInstructionsWrite : Prop :=
  ∀ (i : Instr) (s t : State), exec i s = .next t →
    (i.drawsDisplay = false → t.fb = s.fb ∧ t.dirty = s.dirty) ∧
    (i.storesBytes = false → SameBytes s t) ∧
    (i.writesSound = false → t.st = s.st) ∧ (i.drawsRandom = false → t.drawNo = s.drawNo) ∧
    t.keys = s.keys ∧ t.cfg = s.cfg ∧ t.fontBase = s.fontBase

/-- A general register changes only as an ordinary destination (R22), or, for VF, by an instruction that writes it as a
flag (R21). -/
def Obligations.RegistersChangeOnlyAsNamed : Prop :=
  ∀ (i : Instr) (s t : State) (r : Reg), exec i s = .next t → i.writesReg r = false →
    (r = regF → i.writesFlag = false) → t.reg r = s.reg r

/-- A program observes `KEYS` only through Ex9E and ExA1 (R40): every other instruction runs the same on any snapshot.
-/
def Obligations.KeysObservedOnlyByKeySkips : Prop :=
  ∀ (i : Instr) (s t : State) (ks : BitVec 16), i.readsKeys = false → exec i s = .next t →
    exec i { s with keys := ks } = .next { t with keys := ks }

/-- No instruction reads `ST` (R30), `DIRTY` (R32) or `LOG` (R36): whatever they hold, every other effect is the same,
`LOG` gets the same new entry, and `ST` and `DIRTY` keep what they held unless the instruction sets them. -/
def Obligations.HostStateUnreadByInstructions : Prop :=
  ∀ (i : Instr) (s t : State) (snd : Byte) (d : Bool) (l : List Report), exec i s = .next t →
    ∃ more, t.log = s.log ++ more ∧
      exec i { s with st := snd, dirty := d, log := l } =
        .next { t with
          st := if i.writesSound then t.st else snd
          dirty := if i.drawsDisplay then true else d
          log := l ++ more }

/-- A store is seen by the very next fetch (R62): the word at an address is the two bytes last stored there, the first
in the high half. -/
def Obligations.FetchSeesStore : Prop :=
  ∀ (s : State) (hi lo : Byte), s.mem.wf → s.pc.toNat ≤ 0xFFE →
    ((s.memWrite s.pc.toNat hi).memWrite (s.pc.toNat + 1) lo).fetchWord.toNat = hi.toNat * 256 + lo.toNat
end

