-- ==== Sys2Proof/Laws/Encoding.lean ====
section
/-! SUPPORT. The fields of an assembled word (spec/30_encoding.md R72, R73): what the decoder's field readers give on
the encoder's words, and a word as the concatenation of its fields. All through the number a word is. -/

namespace Sys2Proof

/-! ## Words as numbers -/

theorem toNat_append_mul {p q : Nat} (a : BitVec p) (b : BitVec q) : (a ++ b).toNat = a.toNat * 2 ^ q + b.toNat := by
  rw [BitVec.toNat_append, ← Nat.shiftLeft_add_eq_or_of_lt b.isLt, Nat.shiftLeft_eq]

theorem toNat_nnn (a : Nibble) (nnn : Addr12) :
    BitVec.toNat (w := 16) (a ++ nnn) = a.toNat * 4096 + nnn.toNat := toNat_append_mul a nnn

theorem toNat_xkk (a : Nibble) (x : Reg) (kk : Byte) :
    BitVec.toNat (w := 16) (a ++ x ++ kk) = (a.toNat * 16 + x.toNat) * 256 + kk.toNat :=
  (toNat_append_mul (a ++ x) kk).trans (congrArg (· * 256 + kk.toNat) (toNat_append_mul a x))

theorem toNat_xyn (a : Nibble) (x y : Reg) (n : Nibble) :
    BitVec.toNat (w := 16) (a ++ x ++ y ++ n) = ((a.toNat * 16 + x.toNat) * 16 + y.toNat) * 16 + n.toNat :=
  (toNat_append_mul (a ++ x ++ y) n).trans (congrArg (· * 16 + n.toNat)
    ((toNat_append_mul (a ++ x) y).trans (congrArg (· * 16 + y.toNat) (toNat_append_mul a x))))

theorem fieldN1_toNat (w : Word) : (fieldN1 w).toNat = w.toNat / 4096 := by
  have := w.isLt
  simp [fieldN1, BitVec.extractLsb'_toNat, Nat.shiftRight_eq_div_pow]
  omega

theorem fieldX_toNat (w : Word) : (fieldX w).toNat = w.toNat / 256 % 16 := by
  simp [fieldX, BitVec.extractLsb'_toNat, Nat.shiftRight_eq_div_pow]

theorem fieldY_toNat (w : Word) : (fieldY w).toNat = w.toNat / 16 % 16 := by
  simp [fieldY, BitVec.extractLsb'_toNat, Nat.shiftRight_eq_div_pow]

theorem fieldN_toNat (w : Word) : (fieldN w).toNat = w.toNat % 16 := by
  simp [fieldN, BitVec.extractLsb'_toNat]

theorem fieldKK_toNat (w : Word) : (fieldKK w).toNat = w.toNat % 256 := by
  simp [fieldKK, BitVec.extractLsb'_toNat]

theorem fieldNNN_toNat (w : Word) : (fieldNNN w).toNat = w.toNat % 4096 := by
  simp [fieldNNN, BitVec.extractLsb'_toNat]

/-! ## Format NNN -/

@[simp] theorem fieldN1_nnn (a : Nibble) (nnn : Addr12) : fieldN1 (a ++ nnn) = a := by
  have := nnn.isLt
  refine BitVec.eq_of_toNat_eq ?_
  rw [fieldN1_toNat, toNat_nnn]
  omega

@[simp] theorem fieldNNN_nnn (a : Nibble) (nnn : Addr12) : fieldNNN (a ++ nnn) = nnn := by
  have := nnn.isLt
  refine BitVec.eq_of_toNat_eq ?_
  rw [fieldNNN_toNat, toNat_nnn]
  omega

/-! ## Formats XKK and XOP -/

@[simp] theorem fieldN1_xkk (a : Nibble) (x : Reg) (kk : Byte) : fieldN1 (a ++ x ++ kk) = a := by
  have := x.isLt; have := kk.isLt
  refine BitVec.eq_of_toNat_eq ?_
  rw [fieldN1_toNat, toNat_xkk]
  omega

@[simp] theorem fieldX_xkk (a : Nibble) (x : Reg) (kk : Byte) : fieldX (a ++ x ++ kk) = x := by
  have := x.isLt; have := kk.isLt
  refine BitVec.eq_of_toNat_eq ?_
  rw [fieldX_toNat, toNat_xkk]
  omega

@[simp] theorem fieldKK_xkk (a : Nibble) (x : Reg) (kk : Byte) : fieldKK (a ++ x ++ kk) = kk := by
  have := kk.isLt
  refine BitVec.eq_of_toNat_eq ?_
  rw [fieldKK_toNat, toNat_xkk]
  omega

@[simp] theorem fieldY_xkk (a : Nibble) (x : Reg) (kk : Byte) : fieldY (a ++ x ++ kk) = kk.extractLsb' 4 4 := by
  refine BitVec.eq_of_toNat_eq ?_
  rw [fieldY_toNat, toNat_xkk, BitVec.extractLsb'_toNat, Nat.shiftRight_eq_div_pow]
  omega

@[simp] theorem fieldN_xkk (a : Nibble) (x : Reg) (kk : Byte) : fieldN (a ++ x ++ kk) = kk.extractLsb' 0 4 := by
  refine BitVec.eq_of_toNat_eq ?_
  rw [fieldN_toNat, toNat_xkk, BitVec.extractLsb'_toNat, Nat.shiftRight_eq_div_pow]
  omega

/-! ## Format XYN -/

@[simp] theorem fieldN1_xyn (a : Nibble) (x y : Reg) (n : Nibble) : fieldN1 (a ++ x ++ y ++ n) = a := by
  have := x.isLt; have := y.isLt; have := n.isLt
  refine BitVec.eq_of_toNat_eq ?_
  rw [fieldN1_toNat, toNat_xyn]
  omega

@[simp] theorem fieldX_xyn (a : Nibble) (x y : Reg) (n : Nibble) : fieldX (a ++ x ++ y ++ n) = x := by
  have := x.isLt; have := y.isLt; have := n.isLt
  refine BitVec.eq_of_toNat_eq ?_
  rw [fieldX_toNat, toNat_xyn]
  omega

@[simp] theorem fieldY_xyn (a : Nibble) (x y : Reg) (n : Nibble) : fieldY (a ++ x ++ y ++ n) = y := by
  have := y.isLt; have := n.isLt
  refine BitVec.eq_of_toNat_eq ?_
  rw [fieldY_toNat, toNat_xyn]
  omega

@[simp] theorem fieldN_xyn (a : Nibble) (x y : Reg) (n : Nibble) : fieldN (a ++ x ++ y ++ n) = n := by
  have := n.isLt
  refine BitVec.eq_of_toNat_eq ?_
  rw [fieldN_toNat, toNat_xyn]
  omega

/-! ## A word is its fields -/

theorem word_eq_nnn (w : Word) : w = fieldN1 w ++ fieldNNN w := by
  refine BitVec.eq_of_toNat_eq ?_
  rw [toNat_nnn, fieldN1_toNat, fieldNNN_toNat]
  omega

theorem word_eq_xkk (w : Word) : w = fieldN1 w ++ fieldX w ++ fieldKK w := by
  refine BitVec.eq_of_toNat_eq ?_
  rw [toNat_xkk, fieldN1_toNat, fieldX_toNat, fieldKK_toNat]
  omega

theorem word_eq_xyn (w : Word) : w = fieldN1 w ++ fieldX w ++ fieldY w ++ fieldN w := by
  refine BitVec.eq_of_toNat_eq ?_
  rw [toNat_xyn, fieldN1_toNat, fieldX_toNat, fieldY_toNat, fieldN_toNat]
  omega

/-- A word is its two bytes, the first in the high half (R71). -/
@[simp] theorem wordOfBytes_hi_lo (w : Word) : wordOfBytes (wordHi w) (wordLo w) = w := by
  refine BitVec.eq_of_toNat_eq ?_
  have hcat : (wordOfBytes (wordHi w) (wordLo w)).toNat = (wordHi w).toNat * 256 + (wordLo w).toNat :=
    toNat_append_mul _ _
  have := w.isLt
  rw [hcat]
  simp [wordHi, wordLo, BitVec.extractLsb'_toNat, Nat.shiftRight_eq_div_pow]
  omega

/-! ## The bits under a mask: whether a word is of a row -/

/-- Two words with the same four nibbles are equal. -/
theorem word_ext {u w : Word} (h1 : fieldN1 u = fieldN1 w) (h2 : fieldX u = fieldX w) (h3 : fieldY u = fieldY w)
    (h4 : fieldN u = fieldN w) : u = w := by
  rw [word_eq_xyn u, word_eq_xyn w, h1, h2, h3, h4]

theorem fieldN1_and (u w : Word) : fieldN1 (u &&& w) = fieldN1 u &&& fieldN1 w := BitVec.extractLsb'_and
theorem fieldX_and (u w : Word) : fieldX (u &&& w) = fieldX u &&& fieldX w := BitVec.extractLsb'_and
theorem fieldY_and (u w : Word) : fieldY (u &&& w) = fieldY u &&& fieldY w := BitVec.extractLsb'_and
theorem fieldN_and (u w : Word) : fieldN (u &&& w) = fieldN u &&& fieldN w := BitVec.extractLsb'_and

/-- A word is of a row when each of its nibbles is, under the mask's nibble (R79). -/
theorem OpRow.matches_iff (r : OpRow) (w : Word) :
    r.matches w = true ↔
      fieldN1 w &&& fieldN1 r.mask = fieldN1 r.value ∧ fieldX w &&& fieldX r.mask = fieldX r.value ∧
      fieldY w &&& fieldY r.mask = fieldY r.value ∧ fieldN w &&& fieldN r.mask = fieldN r.value := by
  simp only [OpRow.matches, beq_iff_eq, ← fieldN1_and, ← fieldX_and, ← fieldY_and, ← fieldN_and]
  constructor
  · intro h
    simp [h]
  · rintro ⟨h1, h2, h3, h4⟩
    exact word_ext h1 h2 h3 h4

end Sys2Proof
end

