-- ==== Sys2Proof/Laws/State.lean ====
section
/-! SUPPORT. What each update of the state does to each field (a line each, all by definition), and the same for the
register read. -/

namespace Sys2Proof.Machine

variable (s : State)

@[simp] theorem State.setReg_v (x : Reg) (u : Byte) : (s.setReg x u).v = s.v.set x.toNat u x.isLt := rfl
@[simp] theorem State.setReg_i (x : Reg) (u : Byte) : (s.setReg x u).i = s.i := rfl
@[simp] theorem State.setReg_pc (x : Reg) (u : Byte) : (s.setReg x u).pc = s.pc := rfl
@[simp] theorem State.setReg_stack (x : Reg) (u : Byte) : (s.setReg x u).stack = s.stack := rfl
@[simp] theorem State.setReg_sp (x : Reg) (u : Byte) : (s.setReg x u).sp = s.sp := rfl
@[simp] theorem State.setReg_dt (x : Reg) (u : Byte) : (s.setReg x u).dt = s.dt := rfl
@[simp] theorem State.setReg_st (x : Reg) (u : Byte) : (s.setReg x u).st = s.st := rfl
@[simp] theorem State.setReg_fb (x : Reg) (u : Byte) : (s.setReg x u).fb = s.fb := rfl
@[simp] theorem State.setReg_dirty (x : Reg) (u : Byte) : (s.setReg x u).dirty = s.dirty := rfl
@[simp] theorem State.setReg_keys (x : Reg) (u : Byte) : (s.setReg x u).keys = s.keys := rfl
@[simp] theorem State.setReg_cfg (x : Reg) (u : Byte) : (s.setReg x u).cfg = s.cfg := rfl
@[simp] theorem State.setReg_fontBase (x : Reg) (u : Byte) : (s.setReg x u).fontBase = s.fontBase := rfl
@[simp] theorem State.setReg_status (x : Reg) (u : Byte) : (s.setReg x u).status = s.status := rfl
@[simp] theorem State.setReg_log (x : Reg) (u : Byte) : (s.setReg x u).log = s.log := rfl
@[simp] theorem State.setReg_mem (x : Reg) (u : Byte) : (s.setReg x u).mem = s.mem := rfl
@[simp] theorem State.setReg_framePos (x : Reg) (u : Byte) : (s.setReg x u).framePos = s.framePos := rfl
@[simp] theorem State.setReg_redraws (x : Reg) (u : Byte) : (s.setReg x u).redraws = s.redraws := rfl
@[simp] theorem State.setReg_frameNo (x : Reg) (u : Byte) : (s.setReg x u).frameNo = s.frameNo := rfl
@[simp] theorem State.setReg_drawNo (x : Reg) (u : Byte) : (s.setReg x u).drawNo = s.drawNo := rfl

@[simp] theorem State.setI_v (u : Word) : (s.setI u).v = s.v := rfl
@[simp] theorem State.setI_i (u : Word) : (s.setI u).i = u := rfl
@[simp] theorem State.setI_pc (u : Word) : (s.setI u).pc = s.pc := rfl
@[simp] theorem State.setI_stack (u : Word) : (s.setI u).stack = s.stack := rfl
@[simp] theorem State.setI_sp (u : Word) : (s.setI u).sp = s.sp := rfl
@[simp] theorem State.setI_dt (u : Word) : (s.setI u).dt = s.dt := rfl
@[simp] theorem State.setI_st (u : Word) : (s.setI u).st = s.st := rfl
@[simp] theorem State.setI_fb (u : Word) : (s.setI u).fb = s.fb := rfl
@[simp] theorem State.setI_dirty (u : Word) : (s.setI u).dirty = s.dirty := rfl
@[simp] theorem State.setI_keys (u : Word) : (s.setI u).keys = s.keys := rfl
@[simp] theorem State.setI_cfg (u : Word) : (s.setI u).cfg = s.cfg := rfl
@[simp] theorem State.setI_fontBase (u : Word) : (s.setI u).fontBase = s.fontBase := rfl
@[simp] theorem State.setI_status (u : Word) : (s.setI u).status = s.status := rfl
@[simp] theorem State.setI_log (u : Word) : (s.setI u).log = s.log := rfl
@[simp] theorem State.setI_mem (u : Word) : (s.setI u).mem = s.mem := rfl
@[simp] theorem State.setI_framePos (u : Word) : (s.setI u).framePos = s.framePos := rfl
@[simp] theorem State.setI_redraws (u : Word) : (s.setI u).redraws = s.redraws := rfl
@[simp] theorem State.setI_frameNo (u : Word) : (s.setI u).frameNo = s.frameNo := rfl
@[simp] theorem State.setI_drawNo (u : Word) : (s.setI u).drawNo = s.drawNo := rfl
@[simp] theorem State.setI_reg (u : Word) (r : Reg) : (s.setI u).reg r = s.reg r := rfl

@[simp] theorem State.setPC_v (u : Word) : (s.setPC u).v = s.v := rfl
@[simp] theorem State.setPC_i (u : Word) : (s.setPC u).i = s.i := rfl
@[simp] theorem State.setPC_pc (u : Word) : (s.setPC u).pc = u := rfl
@[simp] theorem State.setPC_stack (u : Word) : (s.setPC u).stack = s.stack := rfl
@[simp] theorem State.setPC_sp (u : Word) : (s.setPC u).sp = s.sp := rfl
@[simp] theorem State.setPC_dt (u : Word) : (s.setPC u).dt = s.dt := rfl
@[simp] theorem State.setPC_st (u : Word) : (s.setPC u).st = s.st := rfl
@[simp] theorem State.setPC_fb (u : Word) : (s.setPC u).fb = s.fb := rfl
@[simp] theorem State.setPC_dirty (u : Word) : (s.setPC u).dirty = s.dirty := rfl
@[simp] theorem State.setPC_keys (u : Word) : (s.setPC u).keys = s.keys := rfl
@[simp] theorem State.setPC_cfg (u : Word) : (s.setPC u).cfg = s.cfg := rfl
@[simp] theorem State.setPC_fontBase (u : Word) : (s.setPC u).fontBase = s.fontBase := rfl
@[simp] theorem State.setPC_status (u : Word) : (s.setPC u).status = s.status := rfl
@[simp] theorem State.setPC_log (u : Word) : (s.setPC u).log = s.log := rfl
@[simp] theorem State.setPC_mem (u : Word) : (s.setPC u).mem = s.mem := rfl
@[simp] theorem State.setPC_framePos (u : Word) : (s.setPC u).framePos = s.framePos := rfl
@[simp] theorem State.setPC_redraws (u : Word) : (s.setPC u).redraws = s.redraws := rfl
@[simp] theorem State.setPC_frameNo (u : Word) : (s.setPC u).frameNo = s.frameNo := rfl
@[simp] theorem State.setPC_drawNo (u : Word) : (s.setPC u).drawNo = s.drawNo := rfl
@[simp] theorem State.setPC_reg (u : Word) (r : Reg) : (s.setPC u).reg r = s.reg r := rfl

@[simp] theorem State.popPC_v : s.popPC.v = s.v := rfl
@[simp] theorem State.popPC_i : s.popPC.i = s.i := rfl
@[simp] theorem State.popPC_pc : s.popPC.pc = s.popValue := rfl
@[simp] theorem State.popPC_stack : s.popPC.stack = s.stack := rfl
@[simp] theorem State.popPC_sp : s.popPC.sp = s.popDepth := rfl
@[simp] theorem State.popPC_dt : s.popPC.dt = s.dt := rfl
@[simp] theorem State.popPC_st : s.popPC.st = s.st := rfl
@[simp] theorem State.popPC_fb : s.popPC.fb = s.fb := rfl
@[simp] theorem State.popPC_dirty : s.popPC.dirty = s.dirty := rfl
@[simp] theorem State.popPC_keys : s.popPC.keys = s.keys := rfl
@[simp] theorem State.popPC_cfg : s.popPC.cfg = s.cfg := rfl
@[simp] theorem State.popPC_fontBase : s.popPC.fontBase = s.fontBase := rfl
@[simp] theorem State.popPC_status : s.popPC.status = s.status := rfl
@[simp] theorem State.popPC_log : s.popPC.log = s.log := rfl
@[simp] theorem State.popPC_mem : s.popPC.mem = s.mem := rfl
@[simp] theorem State.popPC_framePos : s.popPC.framePos = s.framePos := rfl
@[simp] theorem State.popPC_redraws : s.popPC.redraws = s.redraws := rfl
@[simp] theorem State.popPC_frameNo : s.popPC.frameNo = s.frameNo := rfl
@[simp] theorem State.popPC_drawNo : s.popPC.drawNo = s.drawNo := rfl
@[simp] theorem State.popPC_reg (r : Reg) : s.popPC.reg r = s.reg r := rfl

@[simp] theorem State.memWrite_v (a : Nat) (u : Byte) : (s.memWrite a u).v = s.v := rfl
@[simp] theorem State.memWrite_i (a : Nat) (u : Byte) : (s.memWrite a u).i = s.i := rfl
@[simp] theorem State.memWrite_pc (a : Nat) (u : Byte) : (s.memWrite a u).pc = s.pc := rfl
@[simp] theorem State.memWrite_stack (a : Nat) (u : Byte) : (s.memWrite a u).stack = s.stack := rfl
@[simp] theorem State.memWrite_sp (a : Nat) (u : Byte) : (s.memWrite a u).sp = s.sp := rfl
@[simp] theorem State.memWrite_dt (a : Nat) (u : Byte) : (s.memWrite a u).dt = s.dt := rfl
@[simp] theorem State.memWrite_st (a : Nat) (u : Byte) : (s.memWrite a u).st = s.st := rfl
@[simp] theorem State.memWrite_fb (a : Nat) (u : Byte) : (s.memWrite a u).fb = s.fb := rfl
@[simp] theorem State.memWrite_dirty (a : Nat) (u : Byte) : (s.memWrite a u).dirty = s.dirty := rfl
@[simp] theorem State.memWrite_keys (a : Nat) (u : Byte) : (s.memWrite a u).keys = s.keys := rfl
@[simp] theorem State.memWrite_cfg (a : Nat) (u : Byte) : (s.memWrite a u).cfg = s.cfg := rfl
@[simp] theorem State.memWrite_fontBase (a : Nat) (u : Byte) : (s.memWrite a u).fontBase = s.fontBase := rfl
@[simp] theorem State.memWrite_status (a : Nat) (u : Byte) : (s.memWrite a u).status = s.status := rfl
@[simp] theorem State.memWrite_log (a : Nat) (u : Byte) : (s.memWrite a u).log = s.log := rfl
@[simp] theorem State.memWrite_mem (a : Nat) (u : Byte) : (s.memWrite a u).mem = s.mem.write (a % memSize) u := rfl
@[simp] theorem State.memWrite_framePos (a : Nat) (u : Byte) : (s.memWrite a u).framePos = s.framePos := rfl
@[simp] theorem State.memWrite_redraws (a : Nat) (u : Byte) : (s.memWrite a u).redraws = s.redraws := rfl
@[simp] theorem State.memWrite_frameNo (a : Nat) (u : Byte) : (s.memWrite a u).frameNo = s.frameNo := rfl
@[simp] theorem State.memWrite_drawNo (a : Nat) (u : Byte) : (s.memWrite a u).drawNo = s.drawNo := rfl
@[simp] theorem State.memWrite_reg (a : Nat) (u : Byte) (r : Reg) : (s.memWrite a u).reg r = s.reg r := rfl

@[simp] theorem State.report_v (e : Report) : (s.report e).v = s.v := rfl
@[simp] theorem State.report_i (e : Report) : (s.report e).i = s.i := rfl
@[simp] theorem State.report_pc (e : Report) : (s.report e).pc = s.pc := rfl
@[simp] theorem State.report_stack (e : Report) : (s.report e).stack = s.stack := rfl
@[simp] theorem State.report_sp (e : Report) : (s.report e).sp = s.sp := rfl
@[simp] theorem State.report_dt (e : Report) : (s.report e).dt = s.dt := rfl
@[simp] theorem State.report_st (e : Report) : (s.report e).st = s.st := rfl
@[simp] theorem State.report_fb (e : Report) : (s.report e).fb = s.fb := rfl
@[simp] theorem State.report_dirty (e : Report) : (s.report e).dirty = s.dirty := rfl
@[simp] theorem State.report_keys (e : Report) : (s.report e).keys = s.keys := rfl
@[simp] theorem State.report_cfg (e : Report) : (s.report e).cfg = s.cfg := rfl
@[simp] theorem State.report_fontBase (e : Report) : (s.report e).fontBase = s.fontBase := rfl
@[simp] theorem State.report_status (e : Report) : (s.report e).status = s.status := rfl
@[simp] theorem State.report_log (e : Report) : (s.report e).log = s.log ++ [e] := rfl
@[simp] theorem State.report_mem (e : Report) : (s.report e).mem = s.mem := rfl
@[simp] theorem State.report_framePos (e : Report) : (s.report e).framePos = s.framePos := rfl
@[simp] theorem State.report_redraws (e : Report) : (s.report e).redraws = s.redraws := rfl
@[simp] theorem State.report_frameNo (e : Report) : (s.report e).frameNo = s.frameNo := rfl
@[simp] theorem State.report_drawNo (e : Report) : (s.report e).drawNo = s.drawNo := rfl
@[simp] theorem State.report_reg (e : Report) (r : Reg) : (s.report e).reg r = s.reg r := rfl

@[simp] theorem State.halt_v (c : HaltCause) : (s.halt c).v = s.v := rfl
@[simp] theorem State.halt_i (c : HaltCause) : (s.halt c).i = s.i := rfl
@[simp] theorem State.halt_pc (c : HaltCause) : (s.halt c).pc = s.pc := rfl
@[simp] theorem State.halt_stack (c : HaltCause) : (s.halt c).stack = s.stack := rfl
@[simp] theorem State.halt_sp (c : HaltCause) : (s.halt c).sp = s.sp := rfl
@[simp] theorem State.halt_dt (c : HaltCause) : (s.halt c).dt = s.dt := rfl
@[simp] theorem State.halt_st (c : HaltCause) : (s.halt c).st = s.st := rfl
@[simp] theorem State.halt_fb (c : HaltCause) : (s.halt c).fb = s.fb := rfl
@[simp] theorem State.halt_dirty (c : HaltCause) : (s.halt c).dirty = s.dirty := rfl
@[simp] theorem State.halt_keys (c : HaltCause) : (s.halt c).keys = s.keys := rfl
@[simp] theorem State.halt_cfg (c : HaltCause) : (s.halt c).cfg = s.cfg := rfl
@[simp] theorem State.halt_fontBase (c : HaltCause) : (s.halt c).fontBase = s.fontBase := rfl
@[simp] theorem State.halt_status (c : HaltCause) : (s.halt c).status = .halted c := rfl
@[simp] theorem State.halt_log (c : HaltCause) : (s.halt c).log = s.log := rfl
@[simp] theorem State.halt_mem (c : HaltCause) : (s.halt c).mem = s.mem := rfl
@[simp] theorem State.halt_framePos (c : HaltCause) : (s.halt c).framePos = s.framePos := rfl
@[simp] theorem State.halt_redraws (c : HaltCause) : (s.halt c).redraws = s.redraws := rfl
@[simp] theorem State.halt_frameNo (c : HaltCause) : (s.halt c).frameNo = s.frameNo := rfl
@[simp] theorem State.halt_drawNo (c : HaltCause) : (s.halt c).drawNo = s.drawNo := rfl
@[simp] theorem State.halt_reg (c : HaltCause) (r : Reg) : (s.halt c).reg r = s.reg r := rfl

@[simp] theorem State.raiseFault_v (f : Fault) : (s.raiseFault f).v = s.v := rfl
@[simp] theorem State.raiseFault_i (f : Fault) : (s.raiseFault f).i = s.i := rfl
@[simp] theorem State.raiseFault_pc (f : Fault) : (s.raiseFault f).pc = s.pc := rfl
@[simp] theorem State.raiseFault_stack (f : Fault) : (s.raiseFault f).stack = s.stack := rfl
@[simp] theorem State.raiseFault_sp (f : Fault) : (s.raiseFault f).sp = s.sp := rfl
@[simp] theorem State.raiseFault_dt (f : Fault) : (s.raiseFault f).dt = s.dt := rfl
@[simp] theorem State.raiseFault_st (f : Fault) : (s.raiseFault f).st = s.st := rfl
@[simp] theorem State.raiseFault_fb (f : Fault) : (s.raiseFault f).fb = s.fb := rfl
@[simp] theorem State.raiseFault_dirty (f : Fault) : (s.raiseFault f).dirty = s.dirty := rfl
@[simp] theorem State.raiseFault_keys (f : Fault) : (s.raiseFault f).keys = s.keys := rfl
@[simp] theorem State.raiseFault_cfg (f : Fault) : (s.raiseFault f).cfg = s.cfg := rfl
@[simp] theorem State.raiseFault_fontBase (f : Fault) : (s.raiseFault f).fontBase = s.fontBase := rfl
@[simp] theorem State.raiseFault_status (f : Fault) : (s.raiseFault f).status = .faulted f := rfl
@[simp] theorem State.raiseFault_log (f : Fault) : (s.raiseFault f).log = s.log := rfl
@[simp] theorem State.raiseFault_mem (f : Fault) : (s.raiseFault f).mem = s.mem := rfl
@[simp] theorem State.raiseFault_framePos (f : Fault) : (s.raiseFault f).framePos = s.framePos := rfl
@[simp] theorem State.raiseFault_redraws (f : Fault) : (s.raiseFault f).redraws = s.redraws := rfl
@[simp] theorem State.raiseFault_frameNo (f : Fault) : (s.raiseFault f).frameNo = s.frameNo := rfl
@[simp] theorem State.raiseFault_drawNo (f : Fault) : (s.raiseFault f).drawNo = s.drawNo := rfl
@[simp] theorem State.raiseFault_reg (f : Fault) (r : Reg) : (s.raiseFault f).reg r = s.reg r := rfl

@[simp] theorem State.showDisplay_v (d : Display) : (s.showDisplay d).v = s.v := rfl
@[simp] theorem State.showDisplay_i (d : Display) : (s.showDisplay d).i = s.i := rfl
@[simp] theorem State.showDisplay_pc (d : Display) : (s.showDisplay d).pc = s.pc := rfl
@[simp] theorem State.showDisplay_stack (d : Display) : (s.showDisplay d).stack = s.stack := rfl
@[simp] theorem State.showDisplay_sp (d : Display) : (s.showDisplay d).sp = s.sp := rfl
@[simp] theorem State.showDisplay_dt (d : Display) : (s.showDisplay d).dt = s.dt := rfl
@[simp] theorem State.showDisplay_st (d : Display) : (s.showDisplay d).st = s.st := rfl
@[simp] theorem State.showDisplay_fb (d : Display) : (s.showDisplay d).fb = d := rfl
@[simp] theorem State.showDisplay_dirty (d : Display) : (s.showDisplay d).dirty = true := rfl
@[simp] theorem State.showDisplay_keys (d : Display) : (s.showDisplay d).keys = s.keys := rfl
@[simp] theorem State.showDisplay_cfg (d : Display) : (s.showDisplay d).cfg = s.cfg := rfl
@[simp] theorem State.showDisplay_fontBase (d : Display) : (s.showDisplay d).fontBase = s.fontBase := rfl
@[simp] theorem State.showDisplay_status (d : Display) : (s.showDisplay d).status = s.status := rfl
@[simp] theorem State.showDisplay_log (d : Display) : (s.showDisplay d).log = s.log := rfl
@[simp] theorem State.showDisplay_mem (d : Display) : (s.showDisplay d).mem = s.mem := rfl
@[simp] theorem State.showDisplay_framePos (d : Display) : (s.showDisplay d).framePos = s.framePos := rfl
@[simp] theorem State.showDisplay_redraws (d : Display) : (s.showDisplay d).redraws = s.redraws := rfl
@[simp] theorem State.showDisplay_frameNo (d : Display) : (s.showDisplay d).frameNo = s.frameNo := rfl
@[simp] theorem State.showDisplay_drawNo (d : Display) : (s.showDisplay d).drawNo = s.drawNo := rfl
@[simp] theorem State.showDisplay_reg (d : Display) (r : Reg) : (s.showDisplay d).reg r = s.reg r := rfl

@[simp] theorem State.takeRandom_v : s.takeRandom.2.v = s.v := rfl
@[simp] theorem State.takeRandom_i : s.takeRandom.2.i = s.i := rfl
@[simp] theorem State.takeRandom_pc : s.takeRandom.2.pc = s.pc := rfl
@[simp] theorem State.takeRandom_stack : s.takeRandom.2.stack = s.stack := rfl
@[simp] theorem State.takeRandom_sp : s.takeRandom.2.sp = s.sp := rfl
@[simp] theorem State.takeRandom_dt : s.takeRandom.2.dt = s.dt := rfl
@[simp] theorem State.takeRandom_st : s.takeRandom.2.st = s.st := rfl
@[simp] theorem State.takeRandom_fb : s.takeRandom.2.fb = s.fb := rfl
@[simp] theorem State.takeRandom_dirty : s.takeRandom.2.dirty = s.dirty := rfl
@[simp] theorem State.takeRandom_keys : s.takeRandom.2.keys = s.keys := rfl
@[simp] theorem State.takeRandom_cfg : s.takeRandom.2.cfg = s.cfg := rfl
@[simp] theorem State.takeRandom_fontBase : s.takeRandom.2.fontBase = s.fontBase := rfl
@[simp] theorem State.takeRandom_status : s.takeRandom.2.status = s.status := rfl
@[simp] theorem State.takeRandom_log : s.takeRandom.2.log = s.log := rfl
@[simp] theorem State.takeRandom_mem : s.takeRandom.2.mem = s.mem := rfl
@[simp] theorem State.takeRandom_framePos : s.takeRandom.2.framePos = s.framePos := rfl
@[simp] theorem State.takeRandom_redraws : s.takeRandom.2.redraws = s.redraws := rfl
@[simp] theorem State.takeRandom_frameNo : s.takeRandom.2.frameNo = s.frameNo := rfl
@[simp] theorem State.takeRandom_drawNo : s.takeRandom.2.drawNo = s.drawNo + 1 := rfl
@[simp] theorem State.takeRandom_reg (r : Reg) : s.takeRandom.2.reg r = s.reg r := rfl

@[simp] theorem State.timerTick_v : s.timerTick.v = s.v := rfl
@[simp] theorem State.timerTick_i : s.timerTick.i = s.i := rfl
@[simp] theorem State.timerTick_pc : s.timerTick.pc = s.pc := rfl
@[simp] theorem State.timerTick_stack : s.timerTick.stack = s.stack := rfl
@[simp] theorem State.timerTick_sp : s.timerTick.sp = s.sp := rfl
@[simp] theorem State.timerTick_dt : s.timerTick.dt = tickDown s.dt := rfl
@[simp] theorem State.timerTick_st : s.timerTick.st = tickDown s.st := rfl
@[simp] theorem State.timerTick_fb : s.timerTick.fb = s.fb := rfl
@[simp] theorem State.timerTick_dirty : s.timerTick.dirty = s.dirty := rfl
@[simp] theorem State.timerTick_keys : s.timerTick.keys = s.keys := rfl
@[simp] theorem State.timerTick_cfg : s.timerTick.cfg = s.cfg := rfl
@[simp] theorem State.timerTick_fontBase : s.timerTick.fontBase = s.fontBase := rfl
@[simp] theorem State.timerTick_status : s.timerTick.status = s.status := rfl
@[simp] theorem State.timerTick_log : s.timerTick.log = s.log := rfl
@[simp] theorem State.timerTick_mem : s.timerTick.mem = s.mem := rfl
@[simp] theorem State.timerTick_framePos : s.timerTick.framePos = s.framePos := rfl
@[simp] theorem State.timerTick_redraws : s.timerTick.redraws = s.redraws := rfl
@[simp] theorem State.timerTick_frameNo : s.timerTick.frameNo = s.frameNo := rfl
@[simp] theorem State.timerTick_drawNo : s.timerTick.drawNo = s.drawNo := rfl
@[simp] theorem State.timerTick_reg (r : Reg) : s.timerTick.reg r = s.reg r := rfl

@[simp] theorem State.offerRedraw_v : s.offerRedraw.v = s.v := rfl
@[simp] theorem State.offerRedraw_i : s.offerRedraw.i = s.i := rfl
@[simp] theorem State.offerRedraw_pc : s.offerRedraw.pc = s.pc := rfl
@[simp] theorem State.offerRedraw_stack : s.offerRedraw.stack = s.stack := rfl
@[simp] theorem State.offerRedraw_sp : s.offerRedraw.sp = s.sp := rfl
@[simp] theorem State.offerRedraw_dt : s.offerRedraw.dt = s.dt := rfl
@[simp] theorem State.offerRedraw_st : s.offerRedraw.st = s.st := rfl
@[simp] theorem State.offerRedraw_fb : s.offerRedraw.fb = s.fb := rfl
@[simp] theorem State.offerRedraw_dirty : s.offerRedraw.dirty = false := rfl
@[simp] theorem State.offerRedraw_keys : s.offerRedraw.keys = s.keys := rfl
@[simp] theorem State.offerRedraw_cfg : s.offerRedraw.cfg = s.cfg := rfl
@[simp] theorem State.offerRedraw_fontBase : s.offerRedraw.fontBase = s.fontBase := rfl
@[simp] theorem State.offerRedraw_status : s.offerRedraw.status = s.status := rfl
@[simp] theorem State.offerRedraw_log : s.offerRedraw.log = s.log := rfl
@[simp] theorem State.offerRedraw_mem : s.offerRedraw.mem = s.mem := rfl
@[simp] theorem State.offerRedraw_framePos : s.offerRedraw.framePos = s.framePos := rfl
@[simp] theorem State.offerRedraw_redraws : s.offerRedraw.redraws = if s.dirty then s.redraws + 1 else s.redraws := rfl
@[simp] theorem State.offerRedraw_frameNo : s.offerRedraw.frameNo = s.frameNo := rfl
@[simp] theorem State.offerRedraw_drawNo : s.offerRedraw.drawNo = s.drawNo := rfl
@[simp] theorem State.offerRedraw_reg (r : Reg) : s.offerRedraw.reg r = s.reg r := rfl

@[simp] theorem State.loadKeys_v (ks : BitVec 16) : (s.loadKeys ks).v = s.v := rfl
@[simp] theorem State.loadKeys_i (ks : BitVec 16) : (s.loadKeys ks).i = s.i := rfl
@[simp] theorem State.loadKeys_pc (ks : BitVec 16) : (s.loadKeys ks).pc = s.pc := rfl
@[simp] theorem State.loadKeys_stack (ks : BitVec 16) : (s.loadKeys ks).stack = s.stack := rfl
@[simp] theorem State.loadKeys_sp (ks : BitVec 16) : (s.loadKeys ks).sp = s.sp := rfl
@[simp] theorem State.loadKeys_dt (ks : BitVec 16) : (s.loadKeys ks).dt = s.dt := rfl
@[simp] theorem State.loadKeys_st (ks : BitVec 16) : (s.loadKeys ks).st = s.st := rfl
@[simp] theorem State.loadKeys_fb (ks : BitVec 16) : (s.loadKeys ks).fb = s.fb := rfl
@[simp] theorem State.loadKeys_dirty (ks : BitVec 16) : (s.loadKeys ks).dirty = s.dirty := rfl
@[simp] theorem State.loadKeys_keys (ks : BitVec 16) : (s.loadKeys ks).keys = ks := rfl
@[simp] theorem State.loadKeys_cfg (ks : BitVec 16) : (s.loadKeys ks).cfg = s.cfg := rfl
@[simp] theorem State.loadKeys_fontBase (ks : BitVec 16) : (s.loadKeys ks).fontBase = s.fontBase := rfl
@[simp] theorem State.loadKeys_status (ks : BitVec 16) : (s.loadKeys ks).status = s.status := rfl
@[simp] theorem State.loadKeys_log (ks : BitVec 16) : (s.loadKeys ks).log = s.log := rfl
@[simp] theorem State.loadKeys_mem (ks : BitVec 16) : (s.loadKeys ks).mem = s.mem := rfl
@[simp] theorem State.loadKeys_framePos (ks : BitVec 16) : (s.loadKeys ks).framePos = s.framePos := rfl
@[simp] theorem State.loadKeys_redraws (ks : BitVec 16) : (s.loadKeys ks).redraws = s.redraws := rfl
@[simp] theorem State.loadKeys_frameNo (ks : BitVec 16) : (s.loadKeys ks).frameNo = s.frameNo := rfl
@[simp] theorem State.loadKeys_drawNo (ks : BitVec 16) : (s.loadKeys ks).drawNo = s.drawNo := rfl
@[simp] theorem State.loadKeys_reg (ks : BitVec 16) (r : Reg) : (s.loadKeys ks).reg r = s.reg r := rfl

@[simp] theorem State.frameBegin_v : s.frameBegin.v = s.v := rfl
@[simp] theorem State.frameBegin_i : s.frameBegin.i = s.i := rfl
@[simp] theorem State.frameBegin_pc : s.frameBegin.pc = s.pc := rfl
@[simp] theorem State.frameBegin_stack : s.frameBegin.stack = s.stack := rfl
@[simp] theorem State.frameBegin_sp : s.frameBegin.sp = s.sp := rfl
@[simp] theorem State.frameBegin_dt : s.frameBegin.dt = s.dt := rfl
@[simp] theorem State.frameBegin_st : s.frameBegin.st = s.st := rfl
@[simp] theorem State.frameBegin_fb : s.frameBegin.fb = s.fb := rfl
@[simp] theorem State.frameBegin_dirty : s.frameBegin.dirty = s.dirty := rfl
@[simp] theorem State.frameBegin_keys : s.frameBegin.keys = if s.framePos = 0 then Config.keysIn s.frameNo else s.keys := rfl
@[simp] theorem State.frameBegin_cfg : s.frameBegin.cfg = s.cfg := rfl
@[simp] theorem State.frameBegin_fontBase : s.frameBegin.fontBase = s.fontBase := rfl
@[simp] theorem State.frameBegin_status : s.frameBegin.status = s.status := rfl
@[simp] theorem State.frameBegin_log : s.frameBegin.log = s.log := rfl
@[simp] theorem State.frameBegin_mem : s.frameBegin.mem = s.mem := rfl
@[simp] theorem State.frameBegin_framePos : s.frameBegin.framePos = s.framePos := rfl
@[simp] theorem State.frameBegin_redraws : s.frameBegin.redraws = s.redraws := rfl
@[simp] theorem State.frameBegin_frameNo : s.frameBegin.frameNo = if s.framePos = 0 then s.frameNo + 1 else s.frameNo := rfl
@[simp] theorem State.frameBegin_drawNo : s.frameBegin.drawNo = s.drawNo := rfl
@[simp] theorem State.frameBegin_reg (r : Reg) : s.frameBegin.reg r = s.reg r := rfl

@[simp] theorem State.frameEnd_v : s.frameEnd.v = s.v := rfl
@[simp] theorem State.frameEnd_i : s.frameEnd.i = s.i := rfl
@[simp] theorem State.frameEnd_pc : s.frameEnd.pc = s.pc := rfl
@[simp] theorem State.frameEnd_stack : s.frameEnd.stack = s.stack := rfl
@[simp] theorem State.frameEnd_sp : s.frameEnd.sp = s.sp := rfl
@[simp] theorem State.frameEnd_fb : s.frameEnd.fb = s.fb := rfl
@[simp] theorem State.frameEnd_keys : s.frameEnd.keys = s.keys := rfl
@[simp] theorem State.frameEnd_cfg : s.frameEnd.cfg = s.cfg := rfl
@[simp] theorem State.frameEnd_fontBase : s.frameEnd.fontBase = s.fontBase := rfl
@[simp] theorem State.frameEnd_status : s.frameEnd.status = s.status := rfl
@[simp] theorem State.frameEnd_log : s.frameEnd.log = s.log := rfl
@[simp] theorem State.frameEnd_mem : s.frameEnd.mem = s.mem := rfl
@[simp] theorem State.frameEnd_frameNo : s.frameEnd.frameNo = s.frameNo := rfl
@[simp] theorem State.frameEnd_drawNo : s.frameEnd.drawNo = s.drawNo := rfl
@[simp] theorem State.frameEnd_reg (r : Reg) : s.frameEnd.reg r = s.reg r := rfl

/-! ## Push: a guarded update -/

theorem State.push_eq (u : Word) (h : s.sp.val < 16) :
    s.push u = { s with stack := s.stack.set s.sp.val u h, sp := ⟨s.sp.val + 1, Nat.succ_lt_succ h⟩ } := dif_pos h

theorem State.push_full (u : Word) (h : ¬ s.sp.val < 16) : s.push u = s := dif_neg h

/-- Push changes the stack and its depth alone. -/
theorem State.push_frame (u : Word) : s.push u = { s with stack := (s.push u).stack, sp := (s.push u).sp } := by
  by_cases h : s.sp.val < 16
  · rw [State.push_eq s u h]
  · rw [State.push_full s u h]

@[simp] theorem State.push_v (u : Word) : (s.push u).v = s.v := by rw [State.push_frame]
@[simp] theorem State.push_i (u : Word) : (s.push u).i = s.i := by rw [State.push_frame]
@[simp] theorem State.push_pc (u : Word) : (s.push u).pc = s.pc := by rw [State.push_frame]
@[simp] theorem State.push_dt (u : Word) : (s.push u).dt = s.dt := by rw [State.push_frame]
@[simp] theorem State.push_st (u : Word) : (s.push u).st = s.st := by rw [State.push_frame]
@[simp] theorem State.push_fb (u : Word) : (s.push u).fb = s.fb := by rw [State.push_frame]
@[simp] theorem State.push_dirty (u : Word) : (s.push u).dirty = s.dirty := by rw [State.push_frame]
@[simp] theorem State.push_keys (u : Word) : (s.push u).keys = s.keys := by rw [State.push_frame]
@[simp] theorem State.push_cfg (u : Word) : (s.push u).cfg = s.cfg := by rw [State.push_frame]
@[simp] theorem State.push_fontBase (u : Word) : (s.push u).fontBase = s.fontBase := by rw [State.push_frame]
@[simp] theorem State.push_status (u : Word) : (s.push u).status = s.status := by rw [State.push_frame]
@[simp] theorem State.push_log (u : Word) : (s.push u).log = s.log := by rw [State.push_frame]
@[simp] theorem State.push_mem (u : Word) : (s.push u).mem = s.mem := by rw [State.push_frame]
@[simp] theorem State.push_framePos (u : Word) : (s.push u).framePos = s.framePos := by rw [State.push_frame]
@[simp] theorem State.push_redraws (u : Word) : (s.push u).redraws = s.redraws := by rw [State.push_frame]
@[simp] theorem State.push_frameNo (u : Word) : (s.push u).frameNo = s.frameNo := by rw [State.push_frame]
@[simp] theorem State.push_drawNo (u : Word) : (s.push u).drawNo = s.drawNo := by rw [State.push_frame]
@[simp] theorem State.push_reg (u : Word) (r : Reg) : (s.push u).reg r = s.reg r := by rw [State.push_frame]; rfl

/-! ## Updates that are an instance of another -/

@[simp] theorem State.setVF_eq (u : Byte) : s.setVF u = s.setReg regF u := rfl
@[simp] theorem State.advance_eq : s.advance = s.setPC (s.pc + 2) := rfl
@[simp] theorem State.skipIf_eq (c : Bool) : s.skipIf c = s.setPC (if c then s.pc + 2 else s.pc) := rfl
@[simp] theorem State.shiftSource_eq (x y : Reg) :
    s.shiftSource x y = s.setReg x (if s.cfg.legacyShift then s.reg y else s.reg x) := rfl
@[simp] theorem State.unrecognized_eq (w : Word) :
    s.unrecognized w = s.report (.unrecognizedOpcode (s.pc - 2) w) := rfl
@[simp] theorem State.instrAddr_eq : s.instrAddr = s.pc - 2 := rfl
@[simp] theorem State.takeRandom_byte : s.takeRandom.1 = Config.rndIn s.drawNo := rfl

/-! ## The register file: a read after a write -/

theorem State.reg_setReg (x r : Reg) (u : Byte) : (s.setReg x u).reg r = if r = x then u else s.reg r := by
  have hx : x.toNat = r.toNat ↔ r = x := by rw [← BitVec.toNat_inj]; exact eq_comm
  simp only [State.reg, State.setReg, Vector.getElem_set, hx]

@[simp] theorem State.reg_setReg_same (x : Reg) (u : Byte) : (s.setReg x u).reg x = u := by
  simp [State.reg_setReg]

theorem State.reg_setReg_other {x r : Reg} (h : r ≠ x) (u : Byte) : (s.setReg x u).reg r = s.reg r := by
  simp [State.reg_setReg, h]

/-- Two register files that read alike are equal. -/
theorem State.v_ext {s t : State} (h : ∀ r, t.reg r = s.reg r) : t.v = s.v := by
  refine Vector.ext fun k hk => ?_
  have hkk : (BitVec.ofNat 4 k).toNat = k := by simp [BitVec.toNat_ofNat]; omega
  have := h (BitVec.ofNat 4 k)
  simpa only [State.reg, hkk] using this

/-! ## The frame protocol -/

theorem State.frameEnd_stopped (h : s.status ≠ .running) : s.frameEnd = s := by
  have hb : (s.status == Status.running) = false := by simp [h]
  cases s
  simp_all [State.frameEnd]

theorem State.frameEnd_inside (h : s.status = .running) (hd : s.frameDone = false) :
    s.frameEnd = { s with framePos := s.framePos + 1 } := by
  cases s
  simp_all [State.frameEnd]

/-- The last step of a frame ends it: a timer tick, then the redraw. -/
theorem State.frameEnd_last (h : s.status = .running) (hd : s.frameDone = true) :
    s.frameEnd = { s.timerTick.offerRedraw with framePos := 0 } := by
  cases s
  simp_all [State.frameEnd, State.timerTick, State.offerRedraw]

end Sys2Proof.Machine
end

