-- ==== Sys2Proof/Laws/Memory.lean ====
section
/-! SUPPORT. The laws of memory: a read after a write, and that every memory operation keeps the canonical form. -/

namespace Sys2Proof.Machine

/-- The size of the address space as a numeral, for arithmetic. -/
theorem memSize_eq : memSize = 4096 := rfl

/-! ## Read after write -/

theorem Memory.read_cell_append_same (a : Nat) (u : Byte) (m : Memory) (h : u = unlisted a → m.read a = unlisted a) :
    Memory.read (Memory.cell a u ++ m) a = u := by
  unfold Memory.cell
  split
  · next hu => simpa [hu] using h hu
  · simp [Memory.read]

theorem Memory.read_cell_append_other {a b : Nat} (h : b ≠ a) (u : Byte) (m : Memory) :
    Memory.read (Memory.cell a u ++ m) b = m.read b := by
  unfold Memory.cell
  split
  · rfl
  · simp [Memory.read, h]

/-- An address below or between the listed ones reads as unlisted. -/
theorem Memory.read_of_forall_ne {m : Memory} {a : Nat} (h : ∀ c ∈ m, c.1 ≠ a) : m.read a = unlisted a := by
  induction m with
  | nil => rfl
  | cons c m ih =>
    obtain ⟨b, w⟩ := c
    have hb : a ≠ b := fun e => h (b, w) (by simp) e.symm
    simp only [Memory.read, hb, if_false]
    exact ih fun c hc => h c (by simp [hc])

/-- The write is read back, in a memory whose addresses rise strictly. -/
theorem Memory.read_write_same {m : Memory} (hm : m.Pairwise (fun c d => c.1 < d.1)) (a : Nat) (u : Byte) :
    (m.write a u).read a = u := by
  induction m with
  | nil => simpa [Memory.write] using Memory.read_cell_append_same a u [] fun _ => rfl
  | cons c m ih =>
    obtain ⟨b, w⟩ := c
    rw [List.pairwise_cons] at hm
    simp only [Memory.write]
    split
    · next hab =>
      refine Memory.read_cell_append_same a u _ fun _ => Memory.read_of_forall_ne ?_
      rintro c hc
      rcases List.mem_cons.1 hc with rfl | hc
      · exact Nat.ne_of_gt hab
      · exact Nat.ne_of_gt (Nat.lt_trans hab (hm.1 c hc))
    · next hab =>
      split
      · next heq =>
        subst heq
        refine Memory.read_cell_append_same a u _ fun _ => Memory.read_of_forall_ne ?_
        exact fun c hc => Nat.ne_of_gt (hm.1 c hc)
      · next hne =>
        simp only [Memory.read, hne, if_false]
        exact ih hm.2

/-- A write leaves every other address alone, in every memory. -/
theorem Memory.read_write_other (m : Memory) {a b : Nat} (h : b ≠ a) (u : Byte) : (m.write a u).read b = m.read b := by
  induction m with
  | nil => simpa [Memory.write] using Memory.read_cell_append_other h u []
  | cons c m ih =>
    obtain ⟨d, w⟩ := c
    simp only [Memory.write]
    split
    · exact Memory.read_cell_append_other h u _
    · split
      · next heq =>
        subst heq
        rw [Memory.read_cell_append_other h]
        simp [Memory.read, h]
      · simp only [Memory.read, ih]

/-! ## The canonical form -/

theorem Memory.mem_write {m : Memory} {a : Nat} {u : Byte} {c : Host.Cell} (h : c ∈ m.write a u) :
    c ∈ m ∨ (c = (a, u) ∧ u ≠ unlisted a) := by
  have hcell : ∀ {c : Host.Cell}, c ∈ Memory.cell a u → c = (a, u) ∧ u ≠ unlisted a := by
    intro c hc
    unfold Memory.cell at hc
    split at hc
    · simp at hc
    · next hu => exact ⟨by simpa using hc, hu⟩
  induction m with
  | nil => exact .inr (hcell h)
  | cons d m ih =>
    obtain ⟨b, w⟩ := d
    simp only [Memory.write] at h
    split at h
    · rcases List.mem_append.1 h with h | h
      · exact .inr (hcell h)
      · exact .inl h
    · split at h
      · rcases List.mem_append.1 h with h | h
        · exact .inr (hcell h)
        · exact .inl (by simp [h])
      · rcases List.mem_cons.1 h with rfl | h
        · exact .inl (by simp)
        · rcases ih h with h | h
          · exact .inl (by simp [h])
          · exact .inr h

theorem Memory.pairwise_cell_append {m : Memory} (hm : m.Pairwise (fun c d => c.1 < d.1)) (a : Nat) (u : Byte)
    (ha : ∀ c ∈ m, a < c.1) : (Memory.cell a u ++ m).Pairwise (fun c d => c.1 < d.1) := by
  unfold Memory.cell
  split
  · exact hm
  · exact List.pairwise_cons.2 ⟨fun c hc => ha c hc, hm⟩

theorem Memory.pairwise_write {m : Memory} (hm : m.Pairwise (fun c d => c.1 < d.1)) (a : Nat) (u : Byte) :
    (m.write a u).Pairwise (fun c d => c.1 < d.1) := by
  induction m with
  | nil => simpa [Memory.write] using Memory.pairwise_cell_append List.Pairwise.nil a u (by simp)
  | cons c m ih =>
    obtain ⟨b, w⟩ := c
    have hmm := List.pairwise_cons.1 hm
    simp only [Memory.write]
    split
    · next hab =>
      refine Memory.pairwise_cell_append hm a u fun c hc => ?_
      rcases List.mem_cons.1 hc with rfl | hc
      · exact hab
      · exact Nat.lt_trans hab (hmm.1 c hc)
    · next hab =>
      split
      · next heq =>
        subst heq
        exact Memory.pairwise_cell_append hmm.2 a u hmm.1
      · next hne =>
        refine List.pairwise_cons.2 ⟨fun c hc => ?_, ih hmm.2⟩
        rcases Memory.mem_write hc with hc | ⟨rfl, -⟩
        · exact hmm.1 c hc
        · show b < a
          omega

theorem Memory.wf_nil : Memory.wf [] := ⟨List.Pairwise.nil, fun _ hc => absurd hc (List.not_mem_nil)⟩

/-- A listed cell is what its address reads as. -/
theorem Memory.read_mem {m : Memory} (hm : m.Pairwise (fun c d => c.1 < d.1)) {c : Host.Cell} (hc : c ∈ m) :
    m.read c.1 = c.2 := by
  induction m with
  | nil => simp at hc
  | cons d m ih =>
    rw [List.pairwise_cons] at hm
    rcases List.mem_cons.1 hc with rfl | hc
    · simp [Memory.read]
    · have hne : c.1 ≠ d.1 := Nat.ne_of_gt (hm.1 c hc)
      simp only [Memory.read, hne, if_false]
      exact ih hm.2 hc

theorem Memory.wf_tail {c : Host.Cell} {m : Memory} (h : Memory.wf (c :: m)) : m.wf :=
  ⟨(List.pairwise_cons.1 h.1).2, fun d hd => h.2 d (List.mem_cons_of_mem _ hd)⟩

/-- The first cell of a canonical memory is not below the first of another that reads alike. -/
theorem Memory.head_le {c d : Host.Cell} {m m' : Memory} (h : Memory.wf (c :: m)) (h' : Memory.wf (d :: m'))
    (hr : ∀ a, Memory.read (c :: m) a = Memory.read (d :: m') a) : d.1 ≤ c.1 := by
  refine Nat.le_of_not_lt fun hlt => (h.2 c (by simp)).2 ?_
  rw [← Memory.read_mem h.1 (List.mem_cons_self ..), hr]
  refine Memory.read_of_forall_ne fun e he => ?_
  rcases List.mem_cons.1 he with rfl | he
  · omega
  · have := (List.pairwise_cons.1 h'.1).1 e he
    omega

/-- Canonical memories that read alike are equal data. -/
theorem Memory.ext {m m' : Memory} (h : m.wf) (h' : m'.wf) (hr : ∀ a, m.read a = m'.read a) : m = m' := by
  induction m generalizing m' with
  | nil =>
    cases m' with
    | nil => rfl
    | cons d m' =>
      exact absurd ((Memory.read_mem h'.1 (List.mem_cons_self ..)).symm.trans (hr d.1).symm) (h'.2 d (by simp)).2
  | cons c m ih =>
    cases m' with
    | nil =>
      exact absurd ((Memory.read_mem h.1 (List.mem_cons_self ..)).symm.trans (hr c.1)) (h.2 c (by simp)).2
    | cons d m' =>
      have ha : c.1 = d.1 := Nat.le_antisymm (Memory.head_le h' h fun a => (hr a).symm) (Memory.head_le h h' hr)
      have hcd : c = d := by
        refine Prod.ext ha ?_
        rw [← Memory.read_mem h.1 (List.mem_cons_self ..), hr, ha, Memory.read_mem h'.1 (List.mem_cons_self ..)]
      subst hcd
      refine congrArg (c :: ·) (ih (Memory.wf_tail h) (Memory.wf_tail h') fun a => ?_)
      by_cases hac : a = c.1
      · have hn : ∀ {n : Memory}, Memory.wf (c :: n) → n.read a = unlisted a := fun hn =>
          Memory.read_of_forall_ne fun e he => by have := (List.pairwise_cons.1 hn.1).1 e he; omega
        rw [hn h, hn h']
      · simpa [Memory.read, hac] using hr a

/-- A write inside the address space keeps the canonical form. -/
theorem Memory.wf_write {m : Memory} (hm : m.wf) {a : Nat} (ha : a < memSize) (u : Byte) : (m.write a u).wf := by
  refine ⟨Memory.pairwise_write hm.1 a u, fun c hc => ?_⟩
  rcases Memory.mem_write hc with hc | ⟨rfl, hu⟩
  · exact hm.2 c hc
  · exact ⟨ha, hu⟩

theorem State.wf_memWrite {s : State} (h : s.mem.wf) (a : Nat) (u : Byte) : (s.memWrite a u).mem.wf :=
  Memory.wf_write h (Nat.mod_lt _ (by decide)) u

theorem State.wf_placeWord {s : State} (h : s.mem.wf) (w : Word) : (s.placeWord w).mem.wf :=
  State.wf_memWrite (State.wf_memWrite h _ _) _ _

/-- Copying bytes inside the address space keeps the canonical form (the ROM load of R191). -/
theorem Memory.wf_load (bytes : List Byte) (a : Nat) {m : Memory} (hm : m.wf) (ha : a + bytes.length ≤ memSize) :
    (Memory.load bytes a m).wf := by
  induction bytes generalizing a m with
  | nil => exact hm
  | cons u us ih =>
    have hlen : a + (us.length + 1) ≤ memSize := by simpa using ha
    exact ih (a + 1) (Memory.wf_write hm (by omega) u) (by omega)

/-- What copying bytes leaves at every address: the bytes where they were copied, the old contents elsewhere. -/
theorem Memory.read_load (bytes : List Byte) (a : Nat) {m : Memory} (hm : m.wf) (ha : a + bytes.length ≤ memSize)
    (b : Nat) :
    (Memory.load bytes a m).read b = if a ≤ b ∧ b < a + bytes.length then bytes.getD (b - a) 0 else m.read b := by
  induction bytes generalizing a m with
  | nil => rw [if_neg (by simp)]; rfl
  | cons u us ih =>
    have hlen : a + (us.length + 1) ≤ memSize := by simpa using ha
    have hw : (m.write a u).wf := Memory.wf_write hm (by omega) u
    rw [Memory.load, ih (a + 1) hw (by omega)]
    by_cases hb : b = a
    · subst hb
      rw [if_neg (by omega), if_pos (by simp)]
      simpa using Memory.read_write_same hm.1 b u
    · rw [Memory.read_write_other m hb]
      by_cases hab : a < b
      · obtain ⟨k, rfl⟩ : ∃ k, b = a + 1 + k := ⟨b - a - 1, by omega⟩
        have h1 : a + 1 + k - a = k + 1 := by omega
        have h2 : a + 1 + k - (a + 1) = k := by omega
        have h3 : (a ≤ a + 1 + k ∧ a + 1 + k < a + (u :: us).length) ↔
            (a + 1 ≤ a + 1 + k ∧ a + 1 + k < a + 1 + us.length) := by simp only [List.length_cons]; omega
        simp only [h1, h2, h3, List.getD_cons_succ]
      · rw [if_neg (by omega), if_neg (by omega)]

/-! ## Initialization (R191) -/

theorem Memory.wf_zeroed : Memory.zeroed.wf := Memory.wf_load _ _ Memory.wf_nil (by decide)

theorem Memory.read_zeroed (a : Nat) : Memory.zeroed.read a = 0 := by
  rw [Memory.zeroed, Memory.read_load _ _ Memory.wf_nil (by decide)]
  simp only [List.length_replicate]
  split
  · next h => simp only [List.getD_eq_getElem?_getD, List.getElem?_replicate]; split <;> rfl
  · next h =>
    show unlisted a = 0
    have hlen : font.length = 80 := rfl
    unfold unlisted
    split
    · next hb => rw [List.getD_eq_default _ _ (by omega)]; rfl
    · rfl

theorem Memory.length_glyphs (fnt : Font) : fnt.glyphs.toList.length = 80 := by simp

theorem Memory.wf_font (fnt : Font) : (Memory.load fnt.glyphs.toList fnt.base.val Memory.zeroed).wf :=
  Memory.wf_load _ _ Memory.wf_zeroed (by have := fnt.base.isLt; have := memSize_eq; simp; omega)

theorem Memory.wf_image {rom : List Byte} (h : rom.length ≤ 3584) (fnt : Font) : (Memory.image rom fnt).wf :=
  Memory.wf_load _ _ (Memory.wf_font fnt) (by have := memSize_eq; simp only [programStart]; omega)

/-- The memory image, address by address. -/
theorem Memory.read_image {rom : List Byte} (h : rom.length ≤ 3584) (fnt : Font) (a : Nat) :
    (Memory.image rom fnt).read a =
      if 0x200 ≤ a ∧ a < 0x200 + rom.length then rom.getD (a - 0x200) 0
      else if fnt.base.val ≤ a ∧ a < fnt.base.val + 80 then fnt.glyphs.toList.getD (a - fnt.base.val) 0
      else 0 := by
  have hb := fnt.base.isLt
  have hs := memSize_eq
  rw [Memory.image, Memory.read_load _ _ (Memory.wf_font fnt) (by simp only [programStart]; omega),
    Memory.read_load _ _ Memory.wf_zeroed (by simp; omega), Memory.read_zeroed, Memory.length_glyphs]
  rfl

/-- With the default font and an empty ROM nothing is listed. -/
theorem Memory.image_standard : Memory.image [] standardFont = [] := by
  refine Memory.ext (Memory.wf_image (by decide) _) Memory.wf_nil fun a => ?_
  rw [Memory.read_image (by decide), if_neg (by simp)]
  show _ = unlisted a
  have hlen : font.length = 80 := rfl
  have hbase : standardFont.base.val = fontBase := rfl
  have hglyphs : standardFont.glyphs.toList = font := rfl
  rw [hbase, hglyphs, unlisted]
  by_cases hb : fontBase ≤ a
  · by_cases ha : a < fontBase + 80
    · rw [if_pos ⟨hb, ha⟩, if_pos hb]; rfl
    · rw [if_neg (by omega), if_pos hb, List.getD_eq_default _ _ (by omega)]; rfl
  · rw [if_neg (by omega), if_neg hb]; rfl

/-! ## The data accesses of the instructions -/

/-- What a store leaves at every address. -/
theorem State.read_memWrite {s : State} (h : s.mem.wf) (a b : Nat) (u : Byte) :
    (s.memWrite a u).mem.read b = if b = a % memSize then u else s.mem.read b := by
  split
  · next hb => subst hb; exact Memory.read_write_same h.1 _ _
  · next hb => exact Memory.read_write_other _ hb _

theorem State.read_memWrite_other (s : State) {a b : Nat} (h : b ≠ a % memSize) (u : Byte) :
    (s.memWrite a u).mem.read b = s.mem.read b := Memory.read_write_other _ h _

@[simp] theorem State.memWrite_dataAddr (s : State) (a : Nat) (u : Byte) (k : Nat) :
    (s.memWrite a u).dataAddr k = s.dataAddr k := rfl

/-- One more store of the loop (R144). -/
theorem storeLoop_succ (n : Nat) (s : State) :
    storeLoop (n + 1) s =
      (storeLoop n s).memWrite ((storeLoop n s).dataAddr n) ((storeLoop n s).reg (BitVec.ofNat 4 n)) := by
  simp [storeLoop, List.range_succ]

/-- The loop of stores changes memory alone. -/
theorem storeLoop_frame (n : Nat) (s : State) : storeLoop n s = { s with mem := (storeLoop n s).mem } := by
  induction n with
  | zero => rfl
  | succ n ih =>
    rw [storeLoop_succ, ih]
    rfl

theorem storeLoop_wf (n : Nat) {s : State} (h : s.mem.wf) : (storeLoop n s).mem.wf := by
  induction n with
  | zero => exact h
  | succ n ih => rw [storeLoop_succ]; exact State.wf_memWrite ih _ _

/-- One more load of the loop (R145). -/
theorem loadLoop_succ (n : Nat) (s : State) :
    loadLoop (n + 1) s =
      (loadLoop n s).setReg (BitVec.ofNat 4 n) ((loadLoop n s).memRead ((loadLoop n s).dataAddr n)) := by
  simp [loadLoop, List.range_succ]

/-- The loop of loads changes the general registers alone. -/
theorem loadLoop_frame (n : Nat) (s : State) : loadLoop n s = { s with v := (loadLoop n s).v } := by
  induction n with
  | zero => rfl
  | succ n ih =>
    rw [loadLoop_succ, ih]
    rfl

/-! ## The loops, field by field -/

@[simp] theorem storeLoop_v (n : Nat) (s : State) : (storeLoop n s).v = s.v := by rw [storeLoop_frame]
@[simp] theorem storeLoop_i (n : Nat) (s : State) : (storeLoop n s).i = s.i := by rw [storeLoop_frame]
@[simp] theorem storeLoop_pc (n : Nat) (s : State) : (storeLoop n s).pc = s.pc := by rw [storeLoop_frame]
@[simp] theorem storeLoop_stack (n : Nat) (s : State) : (storeLoop n s).stack = s.stack := by rw [storeLoop_frame]
@[simp] theorem storeLoop_sp (n : Nat) (s : State) : (storeLoop n s).sp = s.sp := by rw [storeLoop_frame]
@[simp] theorem storeLoop_dt (n : Nat) (s : State) : (storeLoop n s).dt = s.dt := by rw [storeLoop_frame]
@[simp] theorem storeLoop_st (n : Nat) (s : State) : (storeLoop n s).st = s.st := by rw [storeLoop_frame]
@[simp] theorem storeLoop_fb (n : Nat) (s : State) : (storeLoop n s).fb = s.fb := by rw [storeLoop_frame]
@[simp] theorem storeLoop_dirty (n : Nat) (s : State) : (storeLoop n s).dirty = s.dirty := by rw [storeLoop_frame]
@[simp] theorem storeLoop_keys (n : Nat) (s : State) : (storeLoop n s).keys = s.keys := by rw [storeLoop_frame]
@[simp] theorem storeLoop_cfg (n : Nat) (s : State) : (storeLoop n s).cfg = s.cfg := by rw [storeLoop_frame]
@[simp] theorem storeLoop_fontBase (n : Nat) (s : State) : (storeLoop n s).fontBase = s.fontBase := by rw [storeLoop_frame]
@[simp] theorem storeLoop_status (n : Nat) (s : State) : (storeLoop n s).status = s.status := by rw [storeLoop_frame]
@[simp] theorem storeLoop_log (n : Nat) (s : State) : (storeLoop n s).log = s.log := by rw [storeLoop_frame]
@[simp] theorem storeLoop_framePos (n : Nat) (s : State) : (storeLoop n s).framePos = s.framePos := by rw [storeLoop_frame]
@[simp] theorem storeLoop_redraws (n : Nat) (s : State) : (storeLoop n s).redraws = s.redraws := by rw [storeLoop_frame]
@[simp] theorem storeLoop_frameNo (n : Nat) (s : State) : (storeLoop n s).frameNo = s.frameNo := by rw [storeLoop_frame]
@[simp] theorem storeLoop_drawNo (n : Nat) (s : State) : (storeLoop n s).drawNo = s.drawNo := by rw [storeLoop_frame]
@[simp] theorem storeLoop_reg (n : Nat) (s : State) (r : Reg) : (storeLoop n s).reg r = s.reg r := by
  rw [storeLoop_frame]; rfl

@[simp] theorem loadLoop_i (n : Nat) (s : State) : (loadLoop n s).i = s.i := by rw [loadLoop_frame]
@[simp] theorem loadLoop_pc (n : Nat) (s : State) : (loadLoop n s).pc = s.pc := by rw [loadLoop_frame]
@[simp] theorem loadLoop_stack (n : Nat) (s : State) : (loadLoop n s).stack = s.stack := by rw [loadLoop_frame]
@[simp] theorem loadLoop_sp (n : Nat) (s : State) : (loadLoop n s).sp = s.sp := by rw [loadLoop_frame]
@[simp] theorem loadLoop_dt (n : Nat) (s : State) : (loadLoop n s).dt = s.dt := by rw [loadLoop_frame]
@[simp] theorem loadLoop_st (n : Nat) (s : State) : (loadLoop n s).st = s.st := by rw [loadLoop_frame]
@[simp] theorem loadLoop_fb (n : Nat) (s : State) : (loadLoop n s).fb = s.fb := by rw [loadLoop_frame]
@[simp] theorem loadLoop_dirty (n : Nat) (s : State) : (loadLoop n s).dirty = s.dirty := by rw [loadLoop_frame]
@[simp] theorem loadLoop_keys (n : Nat) (s : State) : (loadLoop n s).keys = s.keys := by rw [loadLoop_frame]
@[simp] theorem loadLoop_cfg (n : Nat) (s : State) : (loadLoop n s).cfg = s.cfg := by rw [loadLoop_frame]
@[simp] theorem loadLoop_fontBase (n : Nat) (s : State) : (loadLoop n s).fontBase = s.fontBase := by rw [loadLoop_frame]
@[simp] theorem loadLoop_status (n : Nat) (s : State) : (loadLoop n s).status = s.status := by rw [loadLoop_frame]
@[simp] theorem loadLoop_log (n : Nat) (s : State) : (loadLoop n s).log = s.log := by rw [loadLoop_frame]
@[simp] theorem loadLoop_mem (n : Nat) (s : State) : (loadLoop n s).mem = s.mem := by rw [loadLoop_frame]
@[simp] theorem loadLoop_framePos (n : Nat) (s : State) : (loadLoop n s).framePos = s.framePos := by rw [loadLoop_frame]
@[simp] theorem loadLoop_redraws (n : Nat) (s : State) : (loadLoop n s).redraws = s.redraws := by rw [loadLoop_frame]
@[simp] theorem loadLoop_frameNo (n : Nat) (s : State) : (loadLoop n s).frameNo = s.frameNo := by rw [loadLoop_frame]
@[simp] theorem loadLoop_drawNo (n : Nat) (s : State) : (loadLoop n s).drawNo = s.drawNo := by rw [loadLoop_frame]

end Sys2Proof.Machine
end

