-- ==== Sys2Proof/Laws/Machine.lean ====
section
/-! SUPPORT. One lemma for each shared operation that says everything it can do: the key test, the dispatch, the
core's step, the machine's step, and one pixel of a drawing. -/

namespace Sys2Proof.Machine

/-! ## Errors and key tests -/

/-- The key test either faults on a key number past the snapshot, or skips on the key's bit (R117). -/
theorem keyTest_cases (wanted : Bool) (w : Word) (x : Reg) (s : State) :
    (16 ≤ (s.reg x).toNat ∧
      keyTest wanted w x s = .next (s.raiseFault (.keyIndexOutOfRange (s.pc - 2) w (s.reg x)))) ∨
    ((s.reg x).toNat < 16 ∧
      keyTest wanted w x s = .next (s.setPC (if s.keys.getLsbD (s.reg x).toNat == wanted then s.pc + 2 else s.pc))) := by
  by_cases h : 16 ≤ (s.reg x).toNat
  · exact .inl ⟨h, by simp [keyTest, keyOutOfRange, h]⟩
  · exact .inr ⟨by omega, by simp [keyTest, keyOutOfRange, h, State.keyBit]⟩

theorem execRet_pops {s : State} (h : s.sp.val ≠ 0) : execRet s = .next s.popPC := by
  simp only [execRet, if_neg h]

theorem execCall_room {s : State} (nnn : Addr12) (h : s.sp.val < 16) :
    execCall nnn s = .next ((s.push s.pc).setPC (addrOf nnn)) := by
  simp only [execCall, if_neg (Nat.ne_of_lt h)]

theorem execCall_full {s : State} (nnn : Addr12) (h : s.sp.val = 16) :
    execCall nnn s = .next (s.report (.stackOverflow s.instrAddr (encode (.call nnn)) nnn)) := by
  simp only [execCall, if_pos h]

/-! ## The step of the core (R78), condition by condition (R170) -/

theorem coreStep_stopped {s : State} (h : s.status ≠ .running) : coreStep s = .next s := by
  simp only [coreStep, if_pos h]

theorem coreStep_pastEnd {s : State} (h : s.status = .running) (hp : memSize ≤ s.pc.toNat) :
    coreStep s = .next (s.halt (.outOfBoundsFetch s.pc)) := by
  simp only [coreStep, h, ne_eq, not_true_eq_false, if_false, if_pos hp]

theorem coreStep_top {s : State} (h : s.status = .running) (hp : s.pc = 0xFFF#16) :
    coreStep s = .next (s.raiseFault (.fetchStraddlesEnd s.pc)) := by
  simp [coreStep, h, hp, lastFetch]

theorem coreStep_fetch {s : State} (h : s.status = .running) (hp : s.pc.toNat ≤ lastFetch) :
    coreStep s = dispatch s.fetchWord s.advance := by
  have h1 : ¬ memSize ≤ s.pc.toNat := by simp only [lastFetch, memSize] at hp ⊢; omega
  have h2 : ¬ lastFetch < s.pc.toNat := by omega
  simp only [coreStep, h, ne_eq, not_true_eq_false, if_false, if_neg h1, if_neg h2]

theorem dispatch_ok {w : Word} {i : Instr} (h : decode w = .ok i) (s : State) : dispatch w s = exec i s := by
  simp only [dispatch, h]

theorem dispatch_error {w : Word} {r : Reject} (h : decode w = .error r) (s : State) :
    dispatch w s = .next (s.unrecognized w) := by
  simp only [dispatch, h]

/-- Everything a step of the core can do. -/
theorem coreStep_cases (s : State) :
    (s.status ≠ .running ∧ coreStep s = .next s) ∨
    (s.status = .running ∧ memSize ≤ s.pc.toNat ∧ coreStep s = .next (s.halt (.outOfBoundsFetch s.pc))) ∨
    (s.status = .running ∧ s.pc = 0xFFF#16 ∧ coreStep s = .next (s.raiseFault (.fetchStraddlesEnd s.pc))) ∨
    (s.status = .running ∧ s.pc.toNat ≤ lastFetch ∧ (∃ r, decode s.fetchWord = .error r) ∧
      coreStep s = .next (s.advance.unrecognized s.fetchWord)) ∨
    (s.status = .running ∧ s.pc.toNat ≤ lastFetch ∧ ∃ i, decode s.fetchWord = .ok i ∧
      coreStep s = exec i s.advance) := by
  by_cases h : s.status = .running
  swap
  · exact .inl ⟨h, coreStep_stopped h⟩
  by_cases hp : memSize ≤ s.pc.toNat
  · exact .inr (.inl ⟨h, hp, coreStep_pastEnd h hp⟩)
  by_cases ht : s.pc.toNat ≤ lastFetch
  swap
  · have hpc : s.pc = 0xFFF#16 := by
      refine BitVec.eq_of_toNat_eq ?_
      simp only [lastFetch, memSize] at ht hp
      simp only [BitVec.toNat_ofNat]
      omega
    exact .inr (.inr (.inl ⟨h, hpc, coreStep_top h hpc⟩))
  rcases hd : decode s.fetchWord with r | i
  · exact .inr (.inr (.inr (.inl ⟨h, ht, ⟨r, rfl⟩, (coreStep_fetch h ht).trans (dispatch_error hd _)⟩)))
  · exact .inr (.inr (.inr (.inr ⟨h, ht, i, rfl, (coreStep_fetch h ht).trans (dispatch_ok hd _)⟩)))

/-! ## The machine's step: a step of the core inside the frame protocol (R176) -/

theorem step_stopped {s : State} (h : s.status ≠ .running) : step s = .next s := by
  simp only [step, cycle, if_pos h]

theorem step_of_coreStep {s t : State} (h : s.status = .running) (ht : coreStep s.frameBegin = .next t) :
    step s = .next t.frameEnd := by
  simp only [step, cycle, h, ne_eq, not_true_eq_false, if_false, ht]

/-- A next state of the machine is a next state of the core, between the frame's opening and its closing. -/
theorem step_next {s t : State} (h : step s = .next t) :
    (s.status ≠ .running ∧ t = s) ∨
    (s.status = .running ∧ ∃ u, coreStep s.frameBegin = .next u ∧ t = u.frameEnd) := by
  by_cases hr : s.status = .running
  swap
  · rw [step_stopped hr] at h
    exact .inl ⟨hr, by injection h with h; exact h.symm⟩
  refine .inr ⟨hr, ?_⟩
  rcases hc : coreStep s.frameBegin with u | r | r
  · rw [step_of_coreStep hr hc] at h
    exact ⟨u, rfl, by injection h with h; exact h.symm⟩
  · simp [step, cycle, hr, hc] at h
  · simp [step, cycle, hr, hc] at h

/-- The instruction's fetch does not depend on the frame's opening. -/
@[simp] theorem frameBegin_fetchWord (s : State) : s.frameBegin.fetchWord = s.fetchWord := rfl

/-! ## The display -/

theorem Display.pixel_flip (d : Display) (y y' : Fin 32) (x x' : Fin 64) :
    (d.flip y x).pixel y' x' = if y' = y ∧ x' = x then !d.pixel y x else d.pixel y' x' := by
  obtain ⟨y, hy⟩ := y
  obtain ⟨y', hy'⟩ := y'
  obtain ⟨x, hx⟩ := x
  obtain ⟨x', hx'⟩ := x'
  by_cases hyy : y = y'
  · subst hyy
    by_cases hxx : x = x'
    · subst hxx
      simp [Display.pixel, Display.flip]
    · have hne : ¬ x' = x := fun e => hxx e.symm
      simp [Display.pixel, Display.flip, hne, hxx]
  · have hne : ¬ y' = y := fun e => hyy e.symm
    simp [Display.pixel, Display.flip, hne, hyy]

@[simp] theorem Display.pixel_blank (y : Fin 32) (x : Fin 64) : Display.blank.pixel y x = false := by
  simp [Display.pixel, Display.blank]

/-- Two surfaces with the same pixels are equal. -/
theorem Display.ext {d e : Display} (h : ∀ y x, d.pixel y x = e.pixel y x) : d = e := by
  refine Vector.ext fun y hy => Vector.ext fun x hx => ?_
  exact h ⟨y, hy⟩ ⟨x, hx⟩

/-- One pixel of a drawing (R92). -/
theorem xorPixel_pixel (k : Canvas) (py px : Nat) (y : Fin 32) (x : Fin 64) :
    (xorPixel k py px).fb.pixel y x =
      if y.val = py % 32 ∧ x.val = px % 64 then !k.fb.pixel y x else k.fb.pixel y x := by
  simp only [xorPixel, Display.pixel_flip, Fin.ext_iff]
  split
  · next h =>
    have hy : y = ⟨py % 32, Nat.mod_lt _ (by decide)⟩ := Fin.ext h.1
    have hx : x = ⟨px % 64, Nat.mod_lt _ (by decide)⟩ := Fin.ext h.2
    rw [hy, hx]
  · rfl

end Sys2Proof.Machine
end

