-- ==== Sys2Proof/Laws/PerInstr.lean ====
section
/-! SUPPORT. The per-instruction family RowFits: an instruction's word carries the fixed bits of the row of the opcode
map that the instruction stands for (spec/30_encoding.md R79), and the row is one of the table's. -/

namespace Sys2Proof.Laws.RowFits

def Statement (i : Instr) : Prop := i.row ∈ opTable ∧ i.row.matches (encode i) = true

/-- Every constructor's row is one of the 33. -/
theorem row_mem (i : Instr) : i.row ∈ opTable := by
  cases i <;> simp [Instr.row, opTable, opTableLow, opTableHigh]

/-- A word whose row fixes the primary nibble alone. -/
theorem nibble_row {m : String} {v w : Word} (h1 : fieldN1 w = fieldN1 v) (hv : fieldX v = 0 ∧ fieldY v = 0 ∧ fieldN v = 0) :
    OpRow.matches ⟨m, 0xF000#16, v⟩ w = true := by
  have e1 : fieldN1 0xF000#16 = 0xF#4 := by decide
  have e2 : fieldX 0xF000#16 = 0#4 ∧ fieldY 0xF000#16 = 0#4 ∧ fieldN 0xF000#16 = 0#4 := by decide
  have hand : ∀ a : Nibble, a &&& 0xF#4 = a := by decide
  rw [OpRow.matches_iff]
  simp [e1, e2, hand, h1, hv]

theorem clear : Statement .clear := ⟨row_mem _, by decide⟩
theorem ret : Statement .ret := ⟨row_mem _, by decide⟩
theorem jump (nnn : Addr12) : Statement (.jump nnn) := ⟨row_mem _, nibble_row (fieldN1_nnn _ _) (by decide)⟩
theorem call (nnn : Addr12) : Statement (.call nnn) := ⟨row_mem _, nibble_row (fieldN1_nnn _ _) (by decide)⟩
theorem skipIfEqImm (x : Reg) (kk : Byte) : Statement (.skipIfEqImm x kk) := ⟨row_mem _, nibble_row (fieldN1_xkk _ _ _) (by decide)⟩
theorem skipIfNeImm (x : Reg) (kk : Byte) : Statement (.skipIfNeImm x kk) := ⟨row_mem _, nibble_row (fieldN1_xkk _ _ _) (by decide)⟩
theorem skipIfEqReg (x y : Reg) : Statement (.skipIfEqReg x y) := ⟨row_mem _, by revert x y; decide⟩
theorem loadImm (x : Reg) (kk : Byte) : Statement (.loadImm x kk) := ⟨row_mem _, nibble_row (fieldN1_xkk _ _ _) (by decide)⟩
theorem addImm (x : Reg) (kk : Byte) : Statement (.addImm x kk) := ⟨row_mem _, nibble_row (fieldN1_xkk _ _ _) (by decide)⟩
theorem move (x y : Reg) : Statement (.move x y) := ⟨row_mem _, by revert x y; decide⟩
theorem or (x y : Reg) : Statement (.or x y) := ⟨row_mem _, by revert x y; decide⟩
theorem and (x y : Reg) : Statement (.and x y) := ⟨row_mem _, by revert x y; decide⟩
theorem xor (x y : Reg) : Statement (.xor x y) := ⟨row_mem _, by revert x y; decide⟩
theorem add (x y : Reg) : Statement (.add x y) := ⟨row_mem _, by revert x y; decide⟩
theorem sub (x y : Reg) : Statement (.sub x y) := ⟨row_mem _, by revert x y; decide⟩
theorem shr (x y : Reg) : Statement (.shr x y) := ⟨row_mem _, by revert x y; decide⟩
theorem subn (x y : Reg) : Statement (.subn x y) := ⟨row_mem _, by revert x y; decide⟩
theorem shl (x y : Reg) : Statement (.shl x y) := ⟨row_mem _, by revert x y; decide⟩
theorem skipIfNeReg (x y : Reg) : Statement (.skipIfNeReg x y) := ⟨row_mem _, by revert x y; decide⟩
theorem loadIndex (nnn : Addr12) : Statement (.loadIndex nnn) := ⟨row_mem _, nibble_row (fieldN1_nnn _ _) (by decide)⟩
theorem jumpOffset (nnn : Addr12) : Statement (.jumpOffset nnn) := ⟨row_mem _, nibble_row (fieldN1_nnn _ _) (by decide)⟩
theorem random (x : Reg) (kk : Byte) : Statement (.random x kk) := ⟨row_mem _, nibble_row (fieldN1_xkk _ _ _) (by decide)⟩
theorem draw (x y : Reg) (n : Nibble) : Statement (.draw x y n) := ⟨row_mem _, nibble_row (fieldN1_xyn _ _ _ _) (by decide)⟩
theorem skipIfKey (x : Reg) : Statement (.skipIfKey x) := ⟨row_mem _, by revert x; decide⟩
theorem skipIfNotKey (x : Reg) : Statement (.skipIfNotKey x) := ⟨row_mem _, by revert x; decide⟩
theorem readDelay (x : Reg) : Statement (.readDelay x) := ⟨row_mem _, by revert x; decide⟩
theorem setDelay (x : Reg) : Statement (.setDelay x) := ⟨row_mem _, by revert x; decide⟩
theorem setSound (x : Reg) : Statement (.setSound x) := ⟨row_mem _, by revert x; decide⟩
theorem addIndex (x : Reg) : Statement (.addIndex x) := ⟨row_mem _, by revert x; decide⟩
theorem fontChar (x : Reg) : Statement (.fontChar x) := ⟨row_mem _, by revert x; decide⟩
theorem bcd (x : Reg) : Statement (.bcd x) := ⟨row_mem _, by revert x; decide⟩
theorem storeRegs (x : Reg) : Statement (.storeRegs x) := ⟨row_mem _, by revert x; decide⟩
theorem loadRegs (x : Reg) : Statement (.loadRegs x) := ⟨row_mem _, by revert x; decide⟩

end Sys2Proof.Laws.RowFits
end

