-- ==== Sys2Proof/Tests/Slice0.lean ====
section
/-! SUPPORT. The model's own tests: expected results from spec/95_test_vectors.md (the vector's id, or the rule whose
example it is, stands over each test). -/

namespace Sys2Proof.Tests

open Sys2Proof.Machine

/-- The state after initialization, every behaviour flag 0. -/
def base : State := { State.reset with cfg := ⟨false, false, false⟩ }

/-- Every behaviour flag 1. -/
def legacy : State := { State.reset with cfg := ⟨true, true, true⟩ }

/-- `PC = 0x300`. -/
def at300 : State := { base with pc := 0x300 }

/-- A step of the core on the word `w` placed at `PC`. -/
def runWord (s : State) (w : Word) : Result := coreStep (s.placeWord w)

/-- A next state is answered, and it passes the check. -/
def after (r : Result) (p : State → Bool) : Bool :=
  match r with
  | .next t => p t
  | _ => false

/-! ## Form: each check refuses an ill-formed term -/

/-- F3, F4, F5, B17, F6, F7: words of no row. -/
theorem test_wellFormed_refuses :
    [0x0000, 0xF00A, 0x01E0, 0x5121, 0x9001, 0x800F, 0xE0A2].all (fun w => !Word.wellFormed w) = true := by decide

theorem test_wellFormed_accepts : [0x00E0, 0x00EE, 0x5120, 0x800E, 0xE09E, 0xF065].all Word.wellFormed = true := by
  decide

/-- R193: 3585 bytes do not fit. -/
theorem test_rom_too_long : Rom.wellFormed (List.replicate 3585 0) = false := by
  simp only [Rom.wellFormed, List.length_replicate]
  decide

theorem test_rom_empty : Rom.wellFormed [] = true := by decide

/-! ## Decoding: words written out from the encodings of spec/30_encoding.md R73 and R79 -/

theorem test_decode_clear : decodeTableWord 16 0b0000_0000_1110_0000 = some (.clear) ∧ encode (.clear) = 0b0000_0000_1110_0000 := by decide

theorem test_decode_ret : decodeTableWord 16 0b0000_0000_1110_1110 = some (.ret) ∧ encode (.ret) = 0b0000_0000_1110_1110 := by decide

theorem test_decode_jump : decodeTableWord 16 0b0001_0010_1111_0000 = some (.jump 0x2F0) ∧ encode (.jump 0x2F0) = 0b0001_0010_1111_0000 := by decide

theorem test_decode_call : decodeTableWord 16 0b0010_0010_0001_0000 = some (.call 0x210) ∧ encode (.call 0x210) = 0b0010_0010_0001_0000 := by decide

theorem test_decode_skip_eq_imm : decodeTableWord 16 0b0011_0011_0001_0010 = some (.skipIfEqImm 3 0x12) ∧ encode (.skipIfEqImm 3 0x12) = 0b0011_0011_0001_0010 := by decide

theorem test_decode_skip_ne_imm : decodeTableWord 16 0b0100_0011_0001_0010 = some (.skipIfNeImm 3 0x12) ∧ encode (.skipIfNeImm 3 0x12) = 0b0100_0011_0001_0010 := by decide

theorem test_decode_skip_eq_reg : decodeTableWord 16 0b0101_0001_0010_0000 = some (.skipIfEqReg 1 2) ∧ encode (.skipIfEqReg 1 2) = 0b0101_0001_0010_0000 := by decide

theorem test_decode_load_imm : decodeTableWord 16 0b0110_1010_0010_1011 = some (.loadImm 10 0x2B) ∧ encode (.loadImm 10 0x2B) = 0b0110_1010_0010_1011 := by decide

theorem test_decode_add_imm : decodeTableWord 16 0b0111_0001_0000_1010 = some (.addImm 1 0x0A) ∧ encode (.addImm 1 0x0A) = 0b0111_0001_0000_1010 := by decide

theorem test_decode_move : decodeTableWord 16 0b1000_0001_0010_0000 = some (.move 1 2) ∧ encode (.move 1 2) = 0b1000_0001_0010_0000 := by decide

theorem test_decode_or : decodeTableWord 16 0b1000_0001_0010_0001 = some (.or 1 2) ∧ encode (.or 1 2) = 0b1000_0001_0010_0001 := by decide

theorem test_decode_and : decodeTableWord 16 0b1000_0001_0010_0010 = some (.and 1 2) ∧ encode (.and 1 2) = 0b1000_0001_0010_0010 := by decide

theorem test_decode_xor : decodeTableWord 16 0b1000_0001_0010_0011 = some (.xor 1 2) ∧ encode (.xor 1 2) = 0b1000_0001_0010_0011 := by decide

theorem test_decode_add : decodeTableWord 16 0b1000_0001_0010_0100 = some (.add 1 2) ∧ encode (.add 1 2) = 0b1000_0001_0010_0100 := by decide

theorem test_decode_sub : decodeTableWord 16 0b1000_0001_0010_0101 = some (.sub 1 2) ∧ encode (.sub 1 2) = 0b1000_0001_0010_0101 := by decide

theorem test_decode_shr : decodeTableWord 16 0b1000_0001_0010_0110 = some (.shr 1 2) ∧ encode (.shr 1 2) = 0b1000_0001_0010_0110 := by decide

theorem test_decode_subn : decodeTableWord 16 0b1000_0001_0010_0111 = some (.subn 1 2) ∧ encode (.subn 1 2) = 0b1000_0001_0010_0111 := by decide

theorem test_decode_shl : decodeTableWord 16 0b1000_0001_0010_1110 = some (.shl 1 2) ∧ encode (.shl 1 2) = 0b1000_0001_0010_1110 := by decide

theorem test_decode_skip_ne_reg : decodeTableWord 16 0b1001_0001_0010_0000 = some (.skipIfNeReg 1 2) ∧ encode (.skipIfNeReg 1 2) = 0b1001_0001_0010_0000 := by decide

theorem test_decode_load_index : decodeTableWord 16 0b1010_0011_0000_0000 = some (.loadIndex 0x300) ∧ encode (.loadIndex 0x300) = 0b1010_0011_0000_0000 := by decide

theorem test_decode_jump_offset : decodeTableWord 16 0b1011_0011_0001_0010 = some (.jumpOffset 0x312) ∧ encode (.jumpOffset 0x312) = 0b1011_0011_0001_0010 := by decide

theorem test_decode_random : decodeTableWord 16 0b1100_0011_0000_1111 = some (.random 3 0x0F) ∧ encode (.random 3 0x0F) = 0b1100_0011_0000_1111 := by decide

theorem test_decode_draw : decodeTableWord 16 0b1101_0000_0001_0101 = some (.draw 0 1 5) ∧ encode (.draw 0 1 5) = 0b1101_0000_0001_0101 := by decide

theorem test_decode_skip_key : decodeTableWord 16 0b1110_0101_1001_1110 = some (.skipIfKey 5) ∧ encode (.skipIfKey 5) = 0b1110_0101_1001_1110 := by decide

theorem test_decode_skip_not_key : decodeTableWord 16 0b1110_0101_1010_0001 = some (.skipIfNotKey 5) ∧ encode (.skipIfNotKey 5) = 0b1110_0101_1010_0001 := by decide

theorem test_decode_read_delay : decodeTableWord 16 0b1111_0001_0000_0111 = some (.readDelay 1) ∧ encode (.readDelay 1) = 0b1111_0001_0000_0111 := by decide

theorem test_decode_set_delay : decodeTableWord 16 0b1111_0000_0001_0101 = some (.setDelay 0) ∧ encode (.setDelay 0) = 0b1111_0000_0001_0101 := by decide

theorem test_decode_set_sound : decodeTableWord 16 0b1111_0100_0001_1000 = some (.setSound 4) ∧ encode (.setSound 4) = 0b1111_0100_0001_1000 := by decide

theorem test_decode_add_index : decodeTableWord 16 0b1111_0010_0001_1110 = some (.addIndex 2) ∧ encode (.addIndex 2) = 0b1111_0010_0001_1110 := by decide

theorem test_decode_font_char : decodeTableWord 16 0b1111_0000_0010_1001 = some (.fontChar 0) ∧ encode (.fontChar 0) = 0b1111_0000_0010_1001 := by decide

theorem test_decode_bcd : decodeTableWord 16 0b1111_1010_0011_0011 = some (.bcd 10) ∧ encode (.bcd 10) = 0b1111_1010_0011_0011 := by decide

theorem test_decode_store_regs : decodeTableWord 16 0b1111_0010_0101_0101 = some (.storeRegs 2) ∧ encode (.storeRegs 2) = 0b1111_0010_0101_0101 := by decide

theorem test_decode_load_regs : decodeTableWord 16 0b1111_0010_0110_0101 = some (.loadRegs 2) ∧ encode (.loadRegs 2) = 0b1111_0010_0110_0101 := by decide

/-- F4, F5: Fx0A and 01E0 are no instructions. -/
theorem test_decode_rejects : decodeTableWord 16 0xF00A = none ∧ decodeTableWord 16 0x01E0 = none := by decide

/-- R54: the byte at the lower address is bits 15:8. -/
theorem test_decode_bytes : decodeBytes [0x12, 0xF0, 0xAB] = .ok (.jump 0x2F0, [0xAB]) := by decide

/-! ## One step -/

/-- A1 -/
theorem test_load_imm :
    after (runWord (base) 0x6A42) (fun t => t.reg 10 == 0x42) = true := by decide

/-- A2 -/
theorem test_load_imm_vf :
    after (runWord ((base.setReg 15 1)) 0x6F07) (fun t => t.reg 15 == 7) = true := by decide

/-- L1-8 -/
theorem test_add_imm_no_flag :
    after (runWord (((base.setReg 3 0xFA).setReg 15 0x55)) 0x730A) (fun t => t.reg 3 == 4 && t.reg 15 == 0x55) = true := by decide

/-- A4 -/
theorem test_add_imm_decrement :
    after (runWord ((base.setReg 1 0)) 0x71FF) (fun t => t.reg 1 == 0xFF && t.reg 15 == 0) = true := by decide

/-- A6 -/
theorem test_move :
    after (runWord ((base.setReg 2 0x77)) 0x8120) (fun t => t.reg 1 == 0x77) = true := by decide

/-- A7 -/
theorem test_or :
    after (runWord ((((base.setReg 1 0xF0).setReg 2 0x0F).setReg 15 0x5A)) 0x8121) (fun t => t.reg 1 == 0xFF && t.reg 15 == 0x5A) = true := by decide

/-- R124 -/
theorem test_and :
    after (runWord (((base.setReg 1 0xF0).setReg 2 0x3C)) 0x8122) (fun t => t.reg 1 == 0x30) = true := by decide

/-- R125 -/
theorem test_xor :
    after (runWord (((base.setReg 1 0xF0).setReg 2 0x3C)) 0x8123) (fun t => t.reg 1 == 0xCC) = true := by decide

/-- A16 -/
theorem test_add_carry_into_vf_operand :
    after (runWord (((base.setReg 1 0x10).setReg 15 0xF5)) 0x81F4) (fun t => t.reg 1 == 5 && t.reg 15 == 1) = true := by decide

/-- A15 -/
theorem test_add_vf_destination :
    after (runWord (((base.setReg 15 0xF0).setReg 2 0x20)) 0x8F24) (fun t => t.reg 15 == 0x10) = true := by decide

/-- A20 -/
theorem test_sub_equal_is_zero_flag :
    after (runWord ((((base.setReg 1 7).setReg 2 7).setReg 15 1)) 0x8125) (fun t => t.reg 1 == 0 && t.reg 15 == 0) = true := by decide

/-- A22 -/
theorem test_sub_vf_operand_reads_new_flag :
    after (runWord (((base.setReg 1 5).setReg 15 3)) 0x81F5) (fun t => t.reg 1 == 4 && t.reg 15 == 1) = true := by decide

/-- A26 -/
theorem test_shr_modern_ignores_y :
    after (runWord (((base.setReg 1 1).setReg 2 0xFF)) 0x8126) (fun t => t.reg 1 == 0 && t.reg 15 == 1 && t.reg 2 == 0xFF) = true := by decide

/-- A27 -/
theorem test_shr_legacy :
    after (runWord (((legacy.setReg 1 0xFF).setReg 2 6)) 0x8126) (fun t => t.reg 1 == 3 && t.reg 15 == 0) = true := by decide

/-- A30 -/
theorem test_subn_borrow :
    after (runWord (((base.setReg 1 5).setReg 2 3)) 0x8127) (fun t => t.reg 1 == 0xFE && t.reg 15 == 0) = true := by decide

/-- A33 -/
theorem test_subn_vf_operand_reads_new_flag :
    after (runWord (((base.setReg 1 3).setReg 15 5)) 0x81F7) (fun t => t.reg 1 == 0xFE && t.reg 15 == 1) = true := by decide

/-- A37 -/
theorem test_shl_vf_destination :
    after (runWord ((base.setReg 15 0x80)) 0x8F0E) (fun t => t.reg 15 == 2) = true := by decide

/-- A36 -/
theorem test_shl_legacy :
    after (runWord (((legacy.setReg 1 0).setReg 2 0xC0)) 0x812E) (fun t => t.reg 1 == 0x80 && t.reg 15 == 1) = true := by decide

/-- A40 -/
theorem test_random_of_zero_mask :
    after (runWord ((base.setReg 1 5)) 0xC100) (fun t => t.drawNo == 1 && t.pc == 0x202) = true := by decide

/-- B2 -/
theorem test_jump_odd :
    after (runWord (base) 0x1201) (fun t => t.pc == 0x201) = true := by decide

/-- B3 -/
theorem test_call :
    after (runWord ({ base with pc := 0x300 }) 0x2400) (fun t => t.pc == 0x400 && t.sp.val == 1 && t.stack[0] == 0x302) = true := by decide

/-- B4 -/
theorem test_call_overflow :
    after (runWord ({ base with pc := 0x300, sp := 16 }) 0x2400) (fun t => t.pc == 0x302 && t.sp.val == 16 && t.log == [.stackOverflow 0x300 0x2400 0x400]) = true := by decide

/-- B5 -/
theorem test_return :
    after (runWord ({ base with pc := 0x402, sp := 1, stack := base.stack.set 0 0x302 }) 0x00EE) (fun t => t.pc == 0x302 && t.sp.val == 0) = true := by decide

/-- B6 -/
theorem test_return_underflow :
    after (runWord ({ base with pc := 0x402 }) 0x00EE) (fun t => t.pc == 0x404 && t.status == .faulted (.stackUnderflow 0x402 0x00EE)) = true := by decide

/-- B8 -/
theorem test_jump_offset_modern :
    after (runWord ((base.setReg 3 0x10)) 0xB312) (fun t => t.pc == 0x022) = true := by decide

/-- B10 -/
theorem test_jump_offset_legacy :
    after (runWord ((legacy.setReg 0 0xFF)) 0xBFFF) (fun t => t.pc == 0x10FE) = true := by decide

/-- B13 -/
theorem test_skip_eq_imm_taken :
    after (runWord ((at300.setReg 3 0x12)) 0x3312) (fun t => t.pc == 0x304) = true := by decide

/-- B14 -/
theorem test_skip_eq_imm_not_taken :
    after (runWord ((at300.setReg 3 0x13)) 0x3312) (fun t => t.pc == 0x302) = true := by decide

/-- B15 -/
theorem test_skip_ne_imm :
    after (runWord ((at300.setReg 3 0)) 0x4312) (fun t => t.pc == 0x304) = true := by decide

/-- B16 -/
theorem test_skip_eq_reg :
    after (runWord (((at300.setReg 1 0x40).setReg 2 0x40)) 0x5120) (fun t => t.pc == 0x304) = true := by decide

/-- B18 -/
theorem test_skip_ne_reg :
    after (runWord (((at300.setReg 1 0x40).setReg 2 0x41)) 0x9120) (fun t => t.pc == 0x304) = true := by decide

/-- B19 -/
theorem test_skip_ne_reg_same_never :
    after (runWord ((at300.setReg 1 0x40)) 0x9110) (fun t => t.pc == 0x302) = true := by decide

/-- B20 -/
theorem test_skip_if_key :
    after (runWord ({ at300.setReg 5 10 with keys := 0x0400 }) 0xE59E) (fun t => t.pc == 0x304) = true := by decide

/-- B22 -/
theorem test_skip_if_key_out_of_range :
    after (runWord ((at300.setReg 5 0x10)) 0xE59E) (fun t => t.pc == 0x302 && t.status == .faulted (.keyIndexOutOfRange 0x300 0xE59E 0x10)) = true := by decide

/-- B21 -/
theorem test_skip_if_not_key :
    after (runWord ({ at300.setReg 5 10 with keys := 0xFBFF }) 0xE5A1) (fun t => t.pc == 0x304) = true := by decide

/-- R116 -/
theorem test_skip_if_not_key_pressed :
    after (runWord ({ at300.setReg 5 10 with keys := 0x0400 }) 0xE5A1) (fun t => t.pc == 0x302) = true := by decide

/-- C1 -/
theorem test_load_index :
    after (runWord (base) 0xA300) (fun t => t.i == 0x300) = true := by decide

/-- C2 -/
theorem test_add_index_past_memory :
    after (runWord ({ base.setReg 1 2 with i := 0x0FFF }) 0xF11E) (fun t => t.i == 0x1001 && t.reg 15 == 0) = true := by decide

/-- C3 -/
theorem test_add_index_wraps :
    after (runWord ({ base.setReg 1 2 with i := 0xFFFF }) 0xF11E) (fun t => t.i == 1) = true := by decide

/-- C5 -/
theorem test_font_char :
    after (runWord ((base.setReg 0 10)) 0xF029) (fun t => t.i == 0x082) = true := by decide

/-- C7 -/
theorem test_font_char_no_mask :
    after (runWord ((base.setReg 0 0xFF)) 0xF029) (fun t => t.i == 0x54B) = true ∧
    after (runWord { base.setReg 0 0xFF with fontBase := 432 } 0xF029) (fun t => t.i == 1707) = true := by decide

/-- L1-9 -/
theorem test_bcd :
    after (runWord ({ base.setReg 10 0xD6 with i := 0x300 }) 0xFA33) (fun t => t.memRead 0x300 == 2 && t.memRead 0x301 == 1 && t.memRead 0x302 == 4) = true := by decide

/-- C10 -/
theorem test_bcd_wraps :
    after (runWord ({ base.setReg 0 7 with i := 0x0FFF }) 0xF033) (fun t => t.memRead 0xFFF == 0 && t.memRead 0x000 == 0 && t.memRead 0x001 == 7) = true := by decide

/-- C11 -/
theorem test_store_regs :
    after (runWord ({ (base.setReg 0 1).setReg 2 3 with i := 0x400 }) 0xF255) (fun t => t.memRead 0x400 == 1 && t.memRead 0x401 == 0 && t.memRead 0x402 == 3 && t.i == 0x400) = true := by decide

/-- C13 -/
theorem test_store_regs_legacy :
    after (runWord ({ legacy.setReg 0 0xAA with i := 0x400 }) 0xF055) (fun t => t.memRead 0x400 == 0xAA && t.i == 0x401) = true := by decide

/-- C15 -/
theorem test_load_regs_legacy_keeps_index :
    after (runWord ({ legacy with i := 0x400, mem := [(0x400, 1), (0x401, 2), (0x402, 3)] }) 0xF265) (fun t => t.reg 0 == 1 && t.reg 1 == 2 && t.reg 2 == 3 && t.i == 0x400) = true := by decide

/-- C16 -/
theorem test_load_regs_vf :
    after (runWord ({ base with i := 0x400, mem := [(0x40F, 0x99)] }) 0xFF65) (fun t => t.reg 15 == 0x99) = true := by decide

/-- D1 -/
theorem test_clear :
    after (runWord ({ base with fb := base.fb.flip 3 5 }) 0x00E0) (fun t => t.fb == Display.blank && t.dirty) = true := by decide

/-- D3 -/
theorem test_draw_wraps_both_axes :
    after (runWord ({ (base.setReg 0 62).setReg 1 31 with i := 0x300, mem := [(0x300, 0xFF), (0x301, 0xFF)] }) 0xD012) (fun t => t.fb.pixel 31 62 && t.fb.pixel 0 5 && !t.fb.pixel 0 6 && t.reg 15 == 0) = true := by decide

/-- D7 -/
theorem test_draw_past_memory_reads_zero :
    after (runWord ({ base with i := 0x0FFF, mem := [(0x000, 0xFF), (0xFFF, 0x80)] }) 0xD012) (fun t => t.fb.pixel 0 0 && !t.fb.pixel 1 0 && t.dirty) = true := by decide

/-- E1 -/
theorem test_read_delay :
    after (runWord ({ base with dt := 0x3C }) 0xF107) (fun t => t.reg 1 == 0x3C) = true := by decide

/-- E2 -/
theorem test_set_delay :
    after (runWord ((base.setReg 0 3)) 0xF015) (fun t => t.dt == 3) = true := by decide

/-- E3 -/
theorem test_set_sound :
    after (runWord ((base.setReg 4 2)) 0xF418) (fun t => t.st == 2 && t.soundOn) = true := by decide

/-- B17 -/
theorem test_unrecognized :
    after (runWord (at300) 0x5121) (fun t => t.pc == 0x302 && t.log == [.unrecognizedOpcode 0x300 0x5121]) = true := by decide

/-- F1 -/
theorem test_fetch_past_end :
    coreStep { base with pc := 0x1000 } = .next { base with pc := 0x1000, status := .halted (.outOfBoundsFetch 0x1000) } :=
  by rfl

/-- F2 -/
theorem test_fetch_straddles_end :
    coreStep { base with pc := 0x0FFF } = .next { base with pc := 0x0FFF, status := .faulted (.fetchStraddlesEnd 0xFFF) } :=
  by rfl

/-- E4, E5 -/
theorem test_timer_tick :
    (({ base with dt := 1, st := 5 }).timerTick.dt == 0 && ({ base with dt := 0, st := 5 }).timerTick.st == 4) = true := by
  decide

/-- F10: a store is seen by the next fetch (R62). -/
theorem test_self_modifying :
    after (runWord ({ base.setReg 0 0x12 with i := 0x204, pc := 0x202 }) 0xF155) (fun t => t.fetchWord == 0x1200) = true := by
  decide

/-- R191: the ROM is at 0x200, the font below it. -/
theorem test_rom_image :
    after (initMachine [0x12, 0x00] ⟨false, false, false⟩)
      (fun t => t.fetchWord == 0x1200 && t.memRead 0x050 == 0xF0 && t.memRead 0x202 == 0) = true := by
  decide +kernel

/-- A font other than the default: at address 1, every byte 0xA5. -/
def stripes : Font := ⟨1, Vector.replicate 80 0xA5⟩

/-- R191, R8: with another font, its bytes stand at its base, and the default's place holds 0x00. -/
theorem test_init_font :
    after (initMachine [0xF5, 0x29] ⟨false, false, false⟩ stripes) (fun t => t.memRead 0 == 0 && t.memRead 1 == 0xA5 &&
      t.memRead 80 == 0xA5 && t.memRead 81 == 0 && t.memRead 0x9F == 0 && t.fontBase == 1) = true := by decide +kernel

/-- The word placed for the next step is the one it runs. -/
theorem test_withFetchWord :
    (match step (State.reset.withFetchWord 16 0x12F0) with | .next t => t.pc == 0x2F0 | _ => false) = true := by
  decide

/-! ## Witnesses: for each statement with hypotheses, concrete values that meet them, clause by clause at the boundaries -/

/-- EncodeOfDecode, DecodedWordMatchesOneRow. -/
theorem witness_decoded : decode 0x12F0#16 = .ok (.jump 0x2F0) := by decide

/-- DecodeAcceptsExactlyTheTable, both clauses. -/
theorem witness_table : Word.wellFormed 0x12F0 = true ∧ Word.wellFormed 0xF00A = false := by decide

/-- 00EE at the highest address from which a whole instruction is fetched. -/
def retAtTop : State := { base with pc := 0xFFE }.placeWord 0x00EE

/-- StepRunsDecodedInstruction. -/
theorem witness_step_runs :
    retAtTop.status = .running ∧ retAtTop.pc.toNat = 0xFFE ∧ decode retAtTop.fetchWord = .ok .ret := by decide

/-- UnrecognizedWordIsReportedNoOp, at the first and the last fetch address of an empty ROM. -/
theorem witness_unrecognized :
    (base.status = .running ∧ decode base.fetchWord = .error (.unrecognized 0)) ∧
    (({ base with pc := 0xFFE }).pc.toNat ≤ 0xFFE ∧
      decode ({ base with pc := 0xFFE }).fetchWord = .error (.unrecognized 0)) := by decide

/-- FetchPastEndStopsRun, both clauses at their boundary. -/
theorem witness_fetch_past_end :
    base.status = .running ∧ 0x1000 ≤ ({ base with pc := 0x1000 }).pc.toNat ∧ ({ base with pc := 0xFFF }).pc = 0xFFF#16 := by
  decide

/-- A run that has halted. -/
def stopped : State := { base with status := .halted (.outOfBoundsFetch 0x1000) }

/-- StoppedRunNeverChanges. -/
theorem witness_stopped : stopped.status ≠ .running := by decide

/-- StopsOnlyForNamedCauses: a run that stops, for each cause. -/
theorem witness_stops :
    (∃ t, step { base with pc := 0x1000 } = .next t ∧ t.status ≠ .running) ∧
    (∃ t, step { base with pc := 0xFFF } = .next t ∧ t.status ≠ .running) ∧
    (∃ t, step retAtTop = .next t ∧ t.status ≠ .running) ∧
    (∃ t, step ((base.setReg 5 16).placeWord 0xE59E) = .next t ∧ t.status ≠ .running) ∧
    (∃ t, step ((base.setReg 5 255).placeWord 0xE5A1) = .next t ∧ t.status ≠ .running) :=
  ⟨⟨_, rfl, by decide⟩, ⟨_, rfl, by decide⟩, ⟨_, rfl, by decide⟩, ⟨_, rfl, by decide⟩, ⟨_, rfl, by decide⟩⟩

/-- AddSetsCarryThenSum: the sums 255 and 256, on either side of the carry, with the destination not VF. -/
theorem witness_add :
    (1 : Reg) ≠ regF ∧
    (let s := (base.setReg 1 255).setReg 2 0; (s.reg 1).toNat + (s.reg 2).toNat = 255) ∧
    (let s := (base.setReg 1 255).setReg 2 1; (s.reg 1).toNat + (s.reg 2).toNat = 256) := by decide

/-- SubSetsFlagThenDifference, SubnSetsFlagThenDifference, ShrShiftsLowBitOut, ShlShiftsHighBitOut: the register numbers
of every clause, and both shift modes. -/
theorem witness_flag_registers :
    ((14 : Reg) ≠ regF ∧ (0 : Reg) ≠ regF) ∧ ((14 : Reg) ≠ regF ∧ (15 : Reg) = regF) ∧ ((15 : Reg) = regF ∧ (14 : Reg) ≠ regF) ∧
    base.cfg.legacyShift = false ∧ legacy.cfg.legacyShift = true := by decide

/-- RegisterSkipsTestEquality: a non-zero low nibble, and operands on both sides of the test. -/
theorem witness_register_skips :
    (1 : Nibble) ≠ 0 ∧ (base.reg 1 = base.reg 2) ∧ ((base.setReg 1 1).reg 1 ≠ (base.setReg 1 1).reg 2) := by decide

/-- KeySkipsTestSnapshot: the last key number, pressed and not pressed; KeyNumberPastSnapshotFaults: the first number
past it. -/
theorem witness_keys :
    (let s := { base.setReg 5 15 with keys := 0x8000 }; (s.reg 5).toNat < 16 ∧ s.keys.getLsbD (s.reg 5).toNat = true) ∧
    (let s := { base.setReg 5 15 with keys := 0x7FFF }; (s.reg 5).toNat < 16 ∧ s.keys.getLsbD (s.reg 5).toNat = false) ∧
    16 ≤ ((base.setReg 5 16).reg 5).toNat := by decide

/-- CallPushesOrReportsOverflow, ReturnResumesAfterCall, ReturnPopsOrFaults: the depths 15 and 16, 0, 1 and 16. -/
theorem witness_stack :
    ({ base with sp := 15 }).sp.val < 16 ∧ ({ base with sp := 16 }).sp.val = 16 ∧ base.sp.val = 0 ∧
    ({ base with sp := 1 }).sp.val = (0 : Fin 16).val + 1 ∧ ({ base with sp := 16 }).sp.val = (15 : Fin 16).val + 1 := by
  decide

/-- ReturnResumesAfterCall: a state with the stack that a call left. -/
theorem witness_resume :
    ∃ t, exec (.call 0x210) base = .next t ∧ ∃ u : State, u.stack = t.stack ∧ u.sp = t.sp ∧ u.pc = 0x212 :=
  ⟨_, rfl, { base with pc := 0x212, stack := base.stack.set 0 0x200, sp := 1 }, by decide, by decide, rfl⟩

/-- JumpOffsetAddsRegister: both modes. -/
theorem witness_jump_offset : legacy.cfg.legacyJump = true ∧ base.cfg.legacyJump = false := by decide

/-- BcdStoresDecimalDigits, StoreRegsCopiesToMemory, StoreThenLoadRestores, FetchSeesStore: a canonical memory with
listed cells, the top of memory as the target, and both memory modes. -/
theorem witness_memory :
    Memory.wf [(0x300, 1), (0xFFF, 7)] ∧ ({ base with pc := 0xFFE }).pc.toNat ≤ 0xFFE ∧
    base.cfg.legacyMemory = false ∧ legacy.cfg.legacyMemory = true := by decide

/-- StoreThenLoadRestores: a state with the memory that the stores left, its registers cleared. -/
theorem witness_store_then_load :
    ∃ t, exec (.storeRegs 1) (base.setReg 0 7) = .next t ∧ ∃ u : State, u.mem = t.mem ∧ u.i = base.i ∧ u.reg 0 = 0 :=
  ⟨_, rfl, { base with mem := [(0, 7)] }, by decide, rfl, by decide⟩

/-- A surface with one pixel set, and a one-row sprite that covers it. -/
def oneDot : State := { base with i := 0x300, mem := [(0x300, 0x80)], fb := base.fb.flip 0 0 }

/-- `I` at the last byte of memory, with bits set there and at address 0. -/
def atTop : State := { base with i := 0xFFF, mem := [(0, 0xFF), (0xFFF, 0x80)] }

/-- DrawXorsSprite: a collision, a sprite that meets no set pixel, and a sprite whose second row is past memory; DrawTwiceRestoresSurface: the registers, the
blank surface, a sprite with a set bit and one without. -/
theorem witness_draw :
    (spriteCovers oneDot 1 0 0 0 0 = true ∧ oneDot.fb.pixel 0 0 = true) ∧
    (∀ py px, spriteCovers base 0 0 0 py px = true → base.fb.pixel py px = false) ∧
    ((1 : Reg) ≠ regF ∧ (0 : Reg) ≠ regF ∧ base.fb = Display.blank) ∧
    spriteCovers { oneDot with fb := Display.blank } 1 0 0 0 0 = true ∧
    (∀ py px, spriteCovers base 0 0 0 py px = false) ∧
    spriteCovers atTop 2 0 0 0 0 = true ∧ spriteCovers atTop 2 0 0 1 0 = false := by
  refine ⟨by decide, fun py px h => absurd h (by simp [spriteCovers]), ⟨by decide, by decide, rfl⟩, by decide, fun py px => by
    simp [spriteCovers], by decide, by decide⟩

/-- FrameOpensTicksAndRedraws: a step that goes on, at a frame's start and inside one, and a step that stops. For every
`IPF`, a position is either before the frame's last step or is the last step. -/
theorem witness_frame :
    (∃ t, coreStep (base.placeWord 0x6A42).frameBegin = .next t ∧ t.status = .running) ∧
    (∃ t, coreStep { base with pc := 0x1000 }.frameBegin = .next t ∧ t.status ≠ .running) ∧
    base.framePos = 0 ∧ ({ base with framePos := 1 }).framePos ≠ 0 ∧
    Config.ipf ≤ ({ base with framePos := Config.ipf - 1 }).framePos + 1 :=
  ⟨⟨_, rfl, by decide⟩, ⟨_, rfl, by decide⟩, rfl, by decide, Nat.le_refl _⟩

/-- FrameIsIpfSteps. -/
theorem witness_frame_start : State.reset.status = .running ∧ State.reset.framePos = 0 := by decide

/-- KeysConstantWithinFrame: a step inside a frame. -/
theorem witness_inside_frame :
    ∃ t, step ({ base with framePos := 1 }.placeWord 0x6A42) = .next t ∧
      ({ base with framePos := 1 }.placeWord 0x6A42).framePos ≠ 0 := ⟨_, rfl, by decide⟩

/-- InitializationCopiesRom, both clauses: a ROM of two bytes, and one a byte too long. -/
theorem witness_rom : ([0x12, 0x00] : List Byte).length ≤ 3584 ∧ 3584 < (List.replicate 3585 (0 : Byte)).length := by
  simp only [List.length_replicate]
  decide

/-- StepKeepsMemoryCanonical, StepKeepsPCBounded, StepKeepsFramePosition: a state that meets the invariants and steps,
with the last valid entry of the stack at its bound and the unused one above it beyond. -/
theorem witness_invariants :
    let s := { (base.placeWord 0x2300) with sp := 15, stack := (base.stack.set 14 0x1000).set 15 0xFFFF }
    s.mem.wf ∧ s.pcBounded ∧ s.inFrame ∧ ∃ t, step s = .next t :=
  ⟨by decide, ⟨by decide, by decide⟩, Nat.succ_pos _, _, rfl⟩

/-- LogGrowsAndConfigurationStays: a run of two steps. -/
theorem witness_run : ∃ t, core.run 2 stopped = .next t := ⟨_, rfl⟩

/-- OnlyNamedInstructionsWrite, RegistersChangeOnlyAsNamed, KeysObservedOnlyByKeySkips, HostStateUnreadByInstructions: an
instruction outside each list, and one inside, that answer a next state; VF with an instruction that is no flag writer. -/
theorem witness_exec :
    (∃ t, exec (.jump 0x300) base = .next t) ∧ (∃ t, exec (.setSound 1) base = .next t) ∧
    Instr.drawsDisplay (.jump 0x300) = false ∧ Instr.storesBytes (.jump 0x300) = false ∧
    Instr.writesSound (.jump 0x300) = false ∧ Instr.drawsRandom (.jump 0x300) = false ∧
    Instr.readsKeys (.jump 0x300) = false ∧ Instr.writesReg (.jump 0x300) regF = false ∧
    Instr.writesFlag (.jump 0x300) = false ∧ Instr.writesReg (.loadRegs 14) 15 = false ∧
    Instr.writesReg (.add 1 2) 3 = false ∧ (3 : Reg) ≠ regF :=
  ⟨⟨_, rfl⟩, ⟨_, rfl⟩, by decide, by decide, by decide, by decide, by decide, by decide, by decide, by decide, by decide,
    by decide⟩

end Sys2Proof.Tests
end

section
/-! PROOFS. The index register's arithmetic (spec/44_index_memory.md R141, R142) and initialization
(spec/70_reset_and_hazards.md R191, R193). -/

namespace Sys2Proof.Machine

/-! ## The index register -/

theorem onlyIndex_setI (s : State) (u : Word) : OnlyIndex s (s.setI u) := ⟨rfl, fun _ => rfl⟩

theorem exec_addIndex (x : Reg) (s : State) :
    exec (.addIndex x) s = .next (s.setI (s.i + (s.reg x).setWidth 16)) := rfl

theorem exec_fontChar (x : Reg) (s : State) :
    exec (.fontChar x) s = .next (s.setI (s.glyphAddr (s.reg x))) := rfl

/-- A byte added to a word wraps at 2^16 (D9). -/
theorem toNat_add_setWidth_byte (w : Word) (u : Byte) :
    (w + u.setWidth 16).toNat = (w.toNat + u.toNat) % 65536 := by
  have hu : u.toNat % 65536 = u.toNat := Nat.mod_eq_of_lt (by have := u.isLt; omega)
  simp [BitVec.toNat_add, hu]

/-- The glyph address of an unmasked byte never wraps: it is at most `432 + 255 * 5`. -/
theorem State.toNat_glyphAddr (s : State) (u : Byte) :
    (s.glyphAddr u).toNat = s.fontBase.val + u.toNat * 5 := by
  have hb := s.fontBase.isLt
  have hu := u.isLt
  rw [State.glyphAddr, BitVec.toNat_ofNat, Nat.mod_eq_of_lt (by omega)]

/-- Settles O32: each instruction is one write of `I`, whose value is the sum, wrapped for add-index (D9) and too small
to wrap for font-char. -/
theorem indexArithmetic : Obligations.IndexArithmetic := fun x s =>
  ⟨⟨_, exec_addIndex x s, toNat_add_setWidth_byte s.i (s.reg x), onlyIndex_setI s _⟩,
    ⟨_, exec_fontChar x s, s.toNat_glyphAddr (s.reg x), onlyIndex_setI s _⟩⟩

/-! ## Initialization -/

theorem initMachine_fits {rom : List Byte} (h : rom.length ≤ 3584) (cfg : Cfg) (fnt : Font) :
    initMachine rom cfg fnt =
      .next { State.reset with cfg := cfg, fontBase := fnt.base, mem := Memory.image rom fnt } :=
  if_pos (decide_eq_true h)

theorem initMachine_tooLong {rom : List Byte} (h : 3584 < rom.length) (cfg : Cfg) (fnt : Font) :
    initMachine rom cfg fnt = .refused .romTooLong :=
  if_neg fun hwf => Nat.not_le_of_lt h (of_decide_eq_true hwf)

/-- With nothing configured, initialization is reset: the image of no ROM and the default font lists no cell. -/
theorem initMachine_standard : initMachine [] Config.cfgIn = .next State.reset := by
  rw [initMachine_fits (Nat.zero_le _), Memory.image_standard]
  rfl

section
variable {rom : List Byte} (h : rom.length ≤ 3584) (fnt : Font)
include h

theorem Memory.read_image_rom {k : Nat} (hk : k < rom.length) :
    (Memory.image rom fnt).read (0x200 + k) = rom[k] := by
  rw [Memory.read_image h, if_pos (by omega), Nat.add_sub_cancel_left, List.getD_eq_getElem _ _ hk]

/-- The font lies below the program area (R8's proviso), so the ROM, copied after it, leaves it whole. -/
theorem Memory.read_image_font {k : Nat} (hk : k < 80) :
    (Memory.image rom fnt).read (fnt.base.val + k) = fnt.glyphs[k] := by
  have hb := fnt.base.isLt
  have hlen : k < fnt.glyphs.toList.length := by rwa [Memory.length_glyphs]
  rw [Memory.read_image h, if_neg (by omega), if_pos (by omega), Nat.add_sub_cancel_left,
    List.getD_eq_getElem _ _ hlen, Vector.getElem_toList]

theorem Memory.read_image_zero {a : Nat}
    (ha : a < fnt.base.val ∨ (fnt.base.val + 80 ≤ a ∧ a < 0x200) ∨ 0x200 + rom.length ≤ a) :
    (Memory.image rom fnt).read a = 0 := by
  have hb := fnt.base.isLt
  rw [Memory.read_image h, if_neg (by omega), if_neg (by omega)]

end

/-- Settles O46: initialization writes the memory image alone, and the image is read region by region: the ROM, the
font, and the zeros outside both. -/
theorem initializationCopiesRom : Obligations.InitializationCopiesRom := by
  refine ⟨fun rom cfg fnt => ⟨fun h => ?_, fun h => initMachine_tooLong h cfg fnt⟩, initMachine_standard⟩
  exact ⟨_, initMachine_fits h cfg fnt, fun _ hk => Memory.read_image_rom h fnt hk,
    fun _ hk => Memory.read_image_font h fnt hk, fun _ ha => Memory.read_image_zero h fnt ha,
    Memory.wf_image h fnt, rfl⟩

end Sys2Proof.Machine
end

section
/-! PROOFS. What one instruction can do to the state, said once (`Effect`), and what follows for every step: the
invariants and write lists of spec/10_state.md, the call stack (R27, R28) and the frame protocol (R176). -/

namespace Sys2Proof.Machine

/-- A result has one next state. -/
theorem next_unique {r : Result} {t u : State} (ht : r = .next t) (hu : r = .next u) : t = u :=
  Host.Outcome.next.inj (ht.symm.trans hu)

/-! ## The call stack (R27, R28) -/

theorem State.popValue_eq {s : State} {k : Fin 16} (h : s.sp.val = k.val + 1) : s.popValue = s.stack[k] := by
  simp [State.popValue, h]

theorem State.popDepth_val {s : State} {k : Fin 16} (h : s.sp.val = k.val + 1) : s.popDepth.val = k.val := by
  simp [State.popDepth, h]

theorem execRet_empty {s : State} (h : s.sp.val = 0) :
    execRet s = .next (s.raiseFault (.stackUnderflow (s.pc - 2) 0x00EE#16)) := if_pos h

/-- The state after a call with room on the stack (R102), with its push written out. -/
def State.pushAndJump (s : State) (room : s.sp.val < 16) (nnn : Addr12) : State :=
  { s with
    stack := s.stack.set s.sp.val s.pc room
    sp := ⟨s.sp.val + 1, Nat.succ_lt_succ room⟩
    pc := addrOf nnn }

theorem execCall_pushAndJump {s : State} (nnn : Addr12) (room : s.sp.val < 16) :
    execCall nnn s = .next (s.pushAndJump room nnn) := by
  rw [execCall_room nnn room, State.push_eq s s.pc room]
  rfl

theorem State.pushAndJump_entry (s : State) (room : s.sp.val < 16) (nnn : Addr12) (k : Fin 16) :
    (s.pushAndJump room nnn).stack[k] = if k.val = s.sp.val then s.pc else s.stack[k] := by
  simp [State.pushAndJump, Vector.getElem_set, eq_comm]

/-- Settles O28: with an entry, return is one pop; without, the fault alone. -/
theorem returnPopsOrFaults : Obligations.ReturnPopsOrFaults := by
  refine fun s => ⟨rfl, fun k hk => ?_, fun h0 => execRet_empty h0, rfl⟩
  exact ⟨s.popPC, execRet_pops (by omega), State.popValue_eq hk, State.popDepth_val hk, rfl, fun _ => rfl⟩

/-- Settles O29: the entry the pop reads is the one the call wrote, at the depth before the call. -/
theorem returnResumesAfterCall : Obligations.ReturnResumesAfterCall := by
  refine fun nnn s room => ⟨_, execCall_pushAndJump nnn room, fun u hstack hsp => ?_⟩
  let top : Fin 16 := ⟨s.sp.val, room⟩
  have hdepth : u.sp.val = top.val + 1 := by rw [hsp]; rfl
  refine ⟨u.popPC, execRet_pops (by omega), ?_, Fin.ext (State.popDepth_val hdepth)⟩
  calc u.popValue = u.stack[top] := State.popValue_eq hdepth
    _ = (s.pushAndJump room nnn).stack[top] := by rw [hstack]
    _ = s.pc := (s.pushAndJump_entry room nnn top).trans (if_pos rfl)

/-! ## What one instruction can do -/

/-- Every register keeps its value but those the instruction names as a destination (R22) or writes as its flag (R21). -/
def RegsKept (i : Instr) (s t : State) : Prop :=
  ∀ r, i.writesReg r = false → (r = regF → i.writesFlag = false) → t.reg r = s.reg r

theorem RegsKept.refl (i : Instr) (s : State) : RegsKept i s s := fun _ _ _ => rfl

theorem RegsKept.setReg {i : Instr} {s t : State} {x : Reg} (h : RegsKept i s t) (hx : i.writesReg x = true) (u : Byte) :
    RegsKept i s (t.setReg x u) := by
  intro r hr hf
  have hne : r ≠ x := fun e => by simp [e, hx] at hr
  exact (State.reg_setReg_other t hne u).trans (h r hr hf)

theorem RegsKept.setVF {i : Instr} {s t : State} (h : RegsKept i s t) (hi : i.writesFlag = true) (u : Byte) :
    RegsKept i s (t.setVF u) := by
  intro r hr hf
  have hne : r ≠ regF := fun e => by simp [hf e] at hi
  exact (State.reg_setReg_other t hne u).trans (h r hr hf)

theorem regsKept_loadLoop (x : Reg) (s : State) : ∀ n ≤ x.toNat + 1, RegsKept (.loadRegs x) s (loadLoop n s)
  | 0, _ => .refl _ s
  | n + 1, hn => by
    have hx := x.isLt
    have hw : Instr.writesReg (.loadRegs x) (BitVec.ofNat 4 n) = true :=
      decide_eq_true (by rw [BitVec.toNat_ofNat]; omega)
    rw [loadLoop_succ]
    exact (regsKept_loadLoop x s n (by omega)).setReg hw _

/-- What an instruction can do to the state it starts from: a constructor for each part of the state that an instruction
writes, with the spec's list of the instructions that may write it. -/
inductive Effect (i : Instr) (s : State) : State → Prop
  /-- A fault changes `STATUS` alone (R163, R166). -/
  | fault (f : Fault) : Effect i s (s.raiseFault f)
  /-- A report appends to `LOG` (R162). -/
  | report (e : Report) : Effect i s (s.report e)
  /-- A jump's target is at most 0xFFF + 0xFF (R101, R103). -/
  | jump (u : Word) (hu : u.toNat ≤ 0x10FE) : Effect i s (s.setPC u)
  | skip (c : Bool) : Effect i s (s.skipIf c)
  | call (nnn : Addr12) (room : s.sp.val < 16) : Effect i s (s.pushAndJump room nnn)
  | ret (entry : s.sp.val ≠ 0) : Effect i s s.popPC
  | registers (v : Vector Byte 16) (n : Nat) (hv : RegsKept i s { s with v := v })
      (hn : i.drawsRandom = false → n = s.drawNo) : Effect i s { s with v := v, drawNo := n }
  | index (u : Word) : Effect i s (s.setI u)
  | store (m : Memory) (u : Word) (hi : i.storesBytes = true) : Effect i s { s with mem := m, i := u }
  | display (v : Vector Byte 16) (d : Display) (hv : RegsKept i s { s with v := v }) (hi : i.drawsDisplay = true) :
      Effect i s { s with v := v, fb := d, dirty := true }
  | delay (u : Byte) : Effect i s { s with dt := u }
  | sound (u : Byte) (hi : i.writesSound = true) : Effect i s { s with st := u }

theorem toNat_addrOf (nnn : Addr12) : (addrOf nnn).toNat = nnn.toNat :=
  BitVec.toNat_setWidth_of_le (by decide)

theorem addrOf_le (nnn : Addr12) : (addrOf nnn).toNat ≤ 0xFFF := by
  have := nnn.isLt
  rw [toNat_addrOf]
  omega

/-- The largest target is `0xFFF + 255`, in legacy mode (R26). -/
theorem State.jumpOffsetTarget_le (s : State) (nnn : Addr12) : (s.jumpOffsetTarget nnn).toNat ≤ 0x10FE := by
  have h0 := (s.reg 0).isLt
  have hx := (s.reg (offsetReg nnn)).isLt
  have hn := addrOf_le nnn
  have hk := (offsetImm nnn).isLt
  unfold State.jumpOffsetTarget
  split <;> rw [toNat_add_setWidth_byte]
  · omega
  · rw [BitVec.toNat_setWidth]
    omega

theorem keyTest_effect (i : Instr) (wanted : Bool) (w : Word) (x : Reg) (s : State) :
    ∃ t, keyTest wanted w x s = .next t ∧ Effect i s t := by
  rcases keyTest_cases wanted w x s with ⟨-, h⟩ | ⟨-, h⟩
  · exact ⟨_, h, .fault _⟩
  · exact ⟨_, h, .skip _⟩

section
variable {i : Instr} {x : Reg} (hx : i.writesReg x = true) (s : State)
include hx

/-- The result alone goes to `V[x]`. -/
theorem Effect.dest (u : Byte) : Effect i s (s.setReg x u) :=
  .registers _ _ ((RegsKept.refl i s).setReg hx u) fun _ => rfl

/-- The flag goes to VF, then the result to `V[x]` (R133). -/
theorem Effect.flagThenDest (hf : i.writesFlag = true) (f u : Byte) : Effect i s ((s.setVF f).setReg x u) :=
  .registers _ _ (((RegsKept.refl i s).setVF hf f).setReg hx u) fun _ => rfl

/-- The operand goes to `V[x]`, then the flag to VF, then the result to `V[x]` (R128, R130). -/
theorem Effect.sourceFlagThenDest (hf : i.writesFlag = true) (a f u : Byte) :
    Effect i s (((s.setReg x a).setVF f).setReg x u) :=
  .registers _ _ ((((RegsKept.refl i s).setReg hx a).setVF hf f).setReg hx u) fun _ => rfl

end

/-- Every instruction answers a next state (R78), and reaches it by one of the effects. -/
theorem exec_effect (i : Instr) (s : State) : ∃ t, exec i s = .next t ∧ Effect i s t := by
  cases i with
  | clear => exact ⟨_, rfl, .display s.v _ (.refl _ s) rfl⟩
  | ret =>
    by_cases h : s.sp.val = 0
    · exact ⟨_, execRet_empty h, .fault _⟩
    · exact ⟨_, execRet_pops h, .ret h⟩
  | jump nnn => exact ⟨_, rfl, .jump _ (Nat.le_trans (addrOf_le nnn) (by decide))⟩
  | call nnn =>
    by_cases h : s.sp.val = 16
    · exact ⟨_, execCall_full nnn h, .report _⟩
    · have room : s.sp.val < 16 := by omega
      exact ⟨_, execCall_pushAndJump nnn room, .call nnn room⟩
  | skipIfEqImm | skipIfNeImm | skipIfEqReg | skipIfNeReg => exact ⟨_, rfl, .skip _⟩
  | jumpOffset nnn => exact ⟨_, rfl, .jump _ (s.jumpOffsetTarget_le nnn)⟩
  | skipIfKey | skipIfNotKey => exact keyTest_effect ..
  | loadImm x | addImm x | move x | or x | and x | xor x | readDelay x =>
    refine ⟨_, rfl, .dest ?_ s _⟩
    exact beq_self_eq_true x
  | random x =>
    refine ⟨_, rfl, .registers _ _ ((RegsKept.refl _ s).setReg (x := x) ?_ _) nofun⟩
    exact beq_self_eq_true x
  | add x | sub x | subn x =>
    refine ⟨_, rfl, .flagThenDest ?_ s rfl _ _⟩
    exact beq_self_eq_true x
  | shr x | shl x =>
    refine ⟨_, rfl, .sourceFlagThenDest ?_ s rfl _ _ _⟩
    exact beq_self_eq_true x
  | loadRegs x =>
    have hv := regsKept_loadLoop x s _ (Nat.le_refl _)
    have he := loadLoop_frame (x.toNat + 1) s
    rw [he] at hv
    exact ⟨_, congrArg Host.Outcome.next he, .registers _ _ hv fun _ => rfl⟩
  | loadIndex | addIndex | fontChar => exact ⟨_, rfl, .index _⟩
  | bcd => exact ⟨_, rfl, .store _ _ rfl⟩
  | storeRegs x =>
    refine ⟨_, rfl, ?_⟩
    rw [storeLoop_frame]
    exact .store _ _ rfl
  | draw => exact ⟨_, rfl, .display _ _ ((RegsKept.refl _ s).setVF rfl _) rfl⟩
  | setDelay => exact ⟨_, rfl, .delay _⟩
  | setSound => exact ⟨_, rfl, .sound _ rfl⟩

theorem effect_of_exec {i : Instr} {s t : State} (h : exec i s = .next t) : Effect i s t := by
  obtain ⟨u, hu, he⟩ := exec_effect i s
  rwa [next_unique h hu]

/-! ## The write lists of R21, R22, R30 to R34 and R56 -/

/-- The fields no instruction writes: those of the configuration (R34, R8) and of the frame protocol (R33, R40). -/
structure OutsideKept (s t : State) : Prop where
  keys : t.keys = s.keys
  cfg : t.cfg = s.cfg
  fontBase : t.fontBase = s.fontBase
  framePos : t.framePos = s.framePos
  redraws : t.redraws = s.redraws
  frameNo : t.frameNo = s.frameNo

theorem Effect.outsideKept {i : Instr} {s t : State} (h : Effect i s t) : OutsideKept s t := by
  cases h <;> constructor <;> rfl

/-- Settles O52: each effect that writes a listed field carries the membership of its instruction in the field's list. -/
theorem onlyNamedInstructionsWrite : Obligations.OnlyNamedInstructionsWrite := by
  intro i s t h
  have he := effect_of_exec h
  obtain ⟨hkeys, hcfg, hfont, -, -, -⟩ := he.outsideKept
  suffices hw : (i.drawsDisplay = false → t.fb = s.fb ∧ t.dirty = s.dirty) ∧ (i.storesBytes = false → t.mem = s.mem) ∧
      (i.writesSound = false → t.st = s.st) ∧ (i.drawsRandom = false → t.drawNo = s.drawNo) by
    obtain ⟨hfb, hmem, hst, hdraw⟩ := hw
    exact ⟨hfb, fun hi a => by rw [hmem hi], hst, hdraw, hkeys, hcfg, hfont⟩
  cases he with
  | registers v n hv hn => exact ⟨fun _ => ⟨rfl, rfl⟩, fun _ => rfl, fun _ => rfl, hn⟩
  | store m u hi => simp [hi]
  | display v d hv hi => simp [hi]
  | sound u hi => simp [hi]
  | _ => exact ⟨fun _ => ⟨rfl, rfl⟩, fun _ => rfl, fun _ => rfl, fun _ => rfl⟩

/-- Settles O53: the register file is written by two of the effects, and each keeps the registers not named. -/
theorem registersChangeOnlyAsNamed : Obligations.RegistersChangeOnlyAsNamed := by
  intro i s t r h hr hf
  cases effect_of_exec h with
  | registers v n hv hn => exact hv r hr hf
  | display v d hv hi => exact hv r hr hf
  | _ => rfl

/-! ## What no instruction reads (R30, R32, R36, R40) -/

section
variable {f : State → State} (hi : ∀ t, (f t).i = t.i)
include hi

/-- The loop of stores commutes with a change of state it neither reads nor writes. -/
theorem storeLoop_comm (hreg : ∀ t r, (f t).reg r = t.reg r) (hw : ∀ t a u, f (t.memWrite a u) = (f t).memWrite a u)
    (n : Nat) (s : State) : storeLoop n (f s) = f (storeLoop n s) := by
  induction n with
  | zero => rfl
  | succ n ih => simp only [storeLoop_succ, ih, hw, hreg, State.dataAddr, hi]

/-- The loop of loads commutes with a change of state it neither reads nor writes. -/
theorem loadLoop_comm (hmem : ∀ t, (f t).mem = t.mem) (hw : ∀ t x u, f (t.setReg x u) = (f t).setReg x u)
    (n : Nat) (s : State) : loadLoop n (f s) = f (loadLoop n s) := by
  induction n with
  | zero => rfl
  | succ n ih => simp only [loadLoop_succ, ih, hw, State.memRead, hmem, State.dataAddr, hi]

end

/-- Every instruction but the two key skips does the same on any snapshot. -/
theorem exec_loadKeys {i : Instr} (hi : i.readsKeys = false) (s : State) (ks : BitVec 16) :
    ∃ t, exec i s = .next t ∧ exec i (s.loadKeys ks) = .next (t.loadKeys ks) := by
  cases i with
  | skipIfKey | skipIfNotKey => simp [Instr.readsKeys] at hi
  | ret =>
    by_cases h : s.sp.val = 0
    · exact ⟨_, execRet_empty h, execRet_empty h⟩
    · exact ⟨_, execRet_pops h, execRet_pops h⟩
  | call nnn =>
    by_cases h : s.sp.val = 16
    · exact ⟨_, execCall_full nnn h, execCall_full nnn h⟩
    · have room : s.sp.val < 16 := by omega
      exact ⟨_, execCall_pushAndJump nnn room, execCall_pushAndJump (s := s.loadKeys ks) nnn room⟩
  | storeRegs x =>
    have hc := storeLoop_comm (f := (·.loadKeys ks)) (fun _ => rfl) (fun _ _ => rfl) (fun _ _ _ => rfl) (x.toNat + 1) s
    exact ⟨_, rfl, by simp only [exec, execStoreRegs, hc]; rfl⟩
  | loadRegs x =>
    have hc := loadLoop_comm (f := (·.loadKeys ks)) (fun _ => rfl) (fun _ => rfl) (fun _ _ _ => rfl) (x.toNat + 1) s
    exact ⟨_, rfl, congrArg Host.Outcome.next hc⟩
  | _ => exact ⟨_, rfl, rfl⟩

/-- Settles O54: the run from the other snapshot is the given run with that snapshot, since a result is unique. -/
theorem keysObservedOnlyByKeySkips : Obligations.KeysObservedOnlyByKeySkips := by
  intro i s t ks hi h
  obtain ⟨u, hu, hk⟩ := exec_loadKeys hi s ks
  rwa [next_unique h hu]

/-- The state with other contents of `ST`, `DIRTY` and `LOG`. -/
def State.withHostState (s : State) (snd : Byte) (d : Bool) (l : List Report) : State :=
  { s with st := snd, dirty := d, log := l }

/-- The instruction does the same whatever `ST`, `DIRTY` and `LOG` hold, up to what of them it sets. -/
def HostStateUnread (i : Instr) (s : State) (snd : Byte) (d : Bool) (l : List Report) : Prop :=
  ∃ t more, exec i s = .next t ∧ t.log = s.log ++ more ∧
    exec i (s.withHostState snd d l) =
      .next (t.withHostState (if i.writesSound then t.st else snd) (if i.drawsDisplay then true else d) (l ++ more))

/-- The case of an instruction that reports nothing. -/
theorem HostStateUnread.silent {i : Instr} {s t : State} {snd : Byte} {d : Bool} {l : List Report}
    (h : exec i s = .next t) (hlog : t.log = s.log)
    (hw : exec i (s.withHostState snd d l) =
      .next (t.withHostState (if i.writesSound then t.st else snd) (if i.drawsDisplay then true else d) l)) :
    HostStateUnread i s snd d l :=
  ⟨t, [], h, by rw [hlog, List.append_nil], by rw [hw, List.append_nil]⟩

/-- Only a call on a full stack reports; the other instructions are silent. -/
theorem hostStateUnread (i : Instr) (s : State) (snd : Byte) (d : Bool) (l : List Report) :
    HostStateUnread i s snd d l := by
  cases i with
  | ret =>
    by_cases h : s.sp.val = 0
    · exact .silent (execRet_empty h) rfl (execRet_empty h)
    · exact .silent (execRet_pops h) rfl (execRet_pops h)
  | call nnn =>
    by_cases h : s.sp.val = 16
    · exact ⟨_, _, execCall_full nnn h, rfl, execCall_full nnn h⟩
    · have room : s.sp.val < 16 := by omega
      exact .silent (execCall_pushAndJump nnn room) rfl (execCall_pushAndJump (s := s.withHostState snd d l) nnn room)
  | skipIfKey x | skipIfNotKey x =>
    by_cases h : keyOutOfRange (s.reg x)
    · exact .silent (if_pos h) rfl (if_pos h)
    · exact .silent (if_neg h) rfl (if_neg h)
  | storeRegs x =>
    have hc := storeLoop_comm (f := (·.withHostState snd d l)) (fun _ => rfl) (fun _ _ => rfl) (fun _ _ _ => rfl)
      (x.toNat + 1) s
    exact .silent rfl (storeLoop_log _ s) (by simp only [exec, execStoreRegs, hc]; rfl)
  | loadRegs x =>
    have hc := loadLoop_comm (f := (·.withHostState snd d l)) (fun _ => rfl) (fun _ => rfl) (fun _ _ _ => rfl)
      (x.toNat + 1) s
    exact .silent rfl (loadLoop_log _ s) (congrArg Host.Outcome.next hc)
  | _ => exact .silent rfl rfl rfl

/-- Settles O55: the run from the other contents ends as the given run does, since a result is unique. -/
theorem hostStateUnreadByInstructions : Obligations.HostStateUnreadByInstructions := by
  intro i s t snd d l h
  obtain ⟨u, more, hu, hlog, hw⟩ := hostStateUnread i s snd d l
  obtain rfl := next_unique h hu
  exact ⟨more, hlog, hw⟩

/-! ## The bounds of `PC` and of the stack (R26) -/

theorem State.pcBounded_pushAndJump {s : State} (h : s.pcBounded) (hp : s.pc.toNat ≤ 0x1000) (room : s.sp.val < 16)
    (nnn : Addr12) : (s.pushAndJump room nnn).pcBounded := by
  refine ⟨Nat.le_trans (addrOf_le nnn) (by decide), fun k (hk : k.val < s.sp.val + 1) => ?_⟩
  rw [State.pushAndJump_entry]
  split
  · exact hp
  · exact h.2 k (by omega)

theorem State.pcBounded_popPC {s : State} (h : s.pcBounded) (entry : s.sp.val ≠ 0) : s.popPC.pcBounded := by
  have hsp := s.sp.isLt
  have hvalid (k : Fin 16) (hk : k.val < s.sp.val) := h.2 k hk
  have htop : s.popValue.toNat ≤ 0x1000 := hvalid ⟨s.sp.val - 1, by omega⟩ (by show s.sp.val - 1 < s.sp.val; omega)
  exact ⟨Nat.le_trans htop (by decide), fun k (hk : k.val < s.sp.val - 1) => hvalid k (by omega)⟩

theorem toNat_add_two_le (w : Word) : (w + 2).toNat ≤ w.toNat + 2 := by
  rw [BitVec.toNat_add]
  exact Nat.mod_le _ _

/-- An instruction fetched at 0xFFE or below runs with `PC` at most 0x1000, and leaves the bounds. -/
theorem Effect.pcBounded {i : Instr} {s t : State} (he : Effect i s t) (h : s.pcBounded) (hp : s.pc.toNat ≤ 0x1000) :
    t.pcBounded := by
  cases he with
  | jump u hu => exact ⟨hu, h.2⟩
  | skip c =>
    have htwo := toNat_add_two_le s.pc
    refine ⟨?_, h.2⟩
    rw [State.skipIf_eq, State.setPC_pc]
    split <;> omega
  | call nnn room => exact State.pcBounded_pushAndJump h hp room nnn
  | ret entry => exact State.pcBounded_popPC h entry
  | _ => exact h

/-! ## From the instruction to the step -/

theorem coreStep_outsideKept {s t : State} (h : coreStep s = .next t) : OutsideKept s t := by
  rcases coreStep_cases s with ⟨-, e⟩ | ⟨-, -, e⟩ | ⟨-, -, e⟩ | ⟨-, -, -, e⟩ | ⟨-, -, i, -, e⟩
  case inr.inr.inr.inr =>
    have hk := (effect_of_exec (e.symm.trans h)).outsideKept
    exact ⟨hk.keys, hk.cfg, hk.fontBase, hk.framePos, hk.redraws, hk.frameNo⟩
  all_goals
    obtain rfl := next_unique e h
    constructor <;> rfl

theorem coreStep_pcBounded {s t : State} (hs : s.pcBounded) (h : coreStep s = .next t) : t.pcBounded := by
  have hadv (hp : s.pc.toNat ≤ lastFetch) : s.advance.pc.toNat ≤ 0x1000 :=
    Nat.le_trans (toNat_add_two_le s.pc) (Nat.add_le_add_right hp 2)
  have hadvB (hp : s.pc.toNat ≤ lastFetch) : s.advance.pcBounded := ⟨Nat.le_trans (hadv hp) (by decide), hs.2⟩
  rcases coreStep_cases s with ⟨-, e⟩ | ⟨-, -, e⟩ | ⟨-, -, e⟩ | ⟨-, hp, -, e⟩ | ⟨-, hp, i, -, e⟩
  case inr.inr.inr.inr => exact (effect_of_exec (e.symm.trans h)).pcBounded (hadvB hp) (hadv hp)
  all_goals obtain rfl := next_unique e h
  case inr.inr.inr.inl => exact hadvB hp
  all_goals exact hs

/-- Settles O49: the step of the core keeps the bounds, and the frame protocol around it writes neither `PC` nor the
stack. -/
theorem stepKeepsPCBounded : Obligations.StepKeepsPCBounded := by
  intro s t hs h
  rcases step_next h with ⟨-, rfl⟩ | ⟨-, u, hu, rfl⟩
  · exact hs
  · have hu' : u.pcBounded := coreStep_pcBounded (s := s.frameBegin) hs hu
    exact hu'

/-! ## The frame protocol (R176) -/

/-- Settles O44: a step inside a frame loads no snapshot, and neither the core's step nor the frame's closing writes
`KEYS` or the count of frames. -/
theorem keysConstantWithinFrame : Obligations.KeysConstantWithinFrame := by
  intro s t h hpos
  rcases step_next h with ⟨-, rfl⟩ | ⟨-, u, hu, rfl⟩
  · exact ⟨rfl, rfl⟩
  · have hk := coreStep_outsideKept hu
    exact ⟨hk.keys.trans (if_neg hpos), hk.frameNo.trans (if_neg hpos)⟩

theorem State.frameDone_iff (s : State) : s.frameDone = true ↔ Config.ipf ≤ s.framePos + 1 := by
  simp [State.frameDone]

theorem State.frameDone_eq_false_iff (s : State) : s.frameDone = false ↔ s.framePos + 1 < Config.ipf := by
  simp [State.frameDone]

/-- The frame's closing keeps the position in the frame: it restarts at the frame's end. -/
theorem State.inFrame_frameEnd {s : State} (h : s.inFrame) : s.frameEnd.inFrame := by
  by_cases hr : s.status = .running
  swap
  · rwa [State.frameEnd_stopped s hr]
  cases hd : s.frameDone
  · rw [State.frameEnd_inside s hr hd]
    exact s.frameDone_eq_false_iff.1 hd
  · rw [State.frameEnd_last s hr hd]
    exact Nat.succ_pos _

/-- Settles O50: the core's step leaves the position, and the frame's closing keeps it below `IPF`. -/
theorem stepKeepsFramePosition : Obligations.StepKeepsFramePosition := by
  intro s t hs h
  rcases step_next h with ⟨-, rfl⟩ | ⟨-, u, hu, rfl⟩
  · exact hs
  · refine State.inFrame_frameEnd ?_
    rw [State.inFrame, (coreStep_outsideKept hu).framePos]
    exact hs

theorem State.frameBegin_eq (s : State) :
    s.frameBegin =
      if s.framePos = 0 then { s with keys := Config.keysIn s.frameNo, frameNo := s.frameNo + 1 } else s := by
  by_cases h : s.framePos = 0 <;> simp [State.frameBegin, h]

/-- Settles O42: the step closes the frame according to the core's status and the position, which the core's step leaves
as it was. -/
theorem frameOpensTicksAndRedraws : Obligations.FrameOpensTicksAndRedraws := by
  intro s t hs ht
  have hstep := step_of_coreStep hs ht
  have hpos : t.framePos = s.framePos := (coreStep_outsideKept ht).framePos
  refine ⟨s.frameBegin_eq, fun hstop => ?_, fun hr hlt => ?_, fun hr hle => ?_⟩
  · rw [hstep, State.frameEnd_stopped t hstop]
  · have hd : t.frameDone = false := by rwa [t.frameDone_eq_false_iff, hpos]
    rw [hstep, State.frameEnd_inside t hr hd, hpos]
  · have hd : t.frameDone = true := by rwa [t.frameDone_iff, hpos]
    rw [hstep, State.frameEnd_last t hr hd]
    rfl

end Sys2Proof.Machine
end

section
/-! PROOFS. Memory (spec/20_memory.md): every step keeps its canonical form, and a fetch sees the bytes just stored. -/

namespace Sys2Proof.Machine

/-! ## The canonical form (R50) -/

theorem Effect.mem_eq {i : Instr} {s t : State} (he : Effect i s t) (hi : i.storesBytes = false) : t.mem = s.mem := by
  cases he with
  | store m u hs => simp [hs] at hi
  | _ => rfl

/-- The two instructions that write memory (R56) do so by `memWrite`, which keeps the form. -/
theorem exec_wf {i : Instr} {s t : State} (hs : s.mem.wf) (h : exec i s = .next t) : t.mem.wf := by
  cases i with
  | bcd x =>
    obtain rfl := next_unique rfl h
    exact State.wf_memWrite (State.wf_memWrite (State.wf_memWrite hs _ _) _ _) _ _
  | storeRegs x =>
    obtain rfl := next_unique rfl h
    exact storeLoop_wf _ hs
  | _ => exact ((effect_of_exec h).mem_eq rfl).symm ▸ hs

theorem coreStep_wf {s t : State} (hs : s.mem.wf) (h : coreStep s = .next t) : t.mem.wf := by
  rcases coreStep_cases s with ⟨-, e⟩ | ⟨-, -, e⟩ | ⟨-, -, e⟩ | ⟨-, -, -, e⟩ | ⟨-, -, i, -, e⟩
  case inr.inr.inr.inr => exact exec_wf (s := s.advance) hs (e.symm.trans h)
  all_goals
    obtain rfl := next_unique e h
    exact hs

/-- Settles O48: the step of the core keeps the form, and the frame protocol around it does not write memory. -/
theorem stepKeepsMemoryCanonical : Obligations.StepKeepsMemoryCanonical := by
  intro s t hs h
  rcases step_next h with ⟨-, rfl⟩ | ⟨-, u, hu, rfl⟩
  · exact hs
  · have hu' : u.mem.wf := coreStep_wf (s := s.frameBegin) hs hu
    exact hu'

/-! ## A fetch after a store (R62) -/

theorem toNat_wordOfBytes (hi lo : Byte) : (wordOfBytes hi lo).toNat = hi.toNat * 256 + lo.toNat :=
  toNat_append_mul hi lo

/-- Settles O56: neither address is reduced, and the second store leaves the byte of the first. -/
theorem fetchSeesStore : Obligations.FetchSeesStore := by
  intro s hi lo hwf hp
  have ha : s.pc.toNat % memSize = s.pc.toNat := Nat.mod_eq_of_lt (by rw [memSize_eq]; omega)
  have hb : (s.pc.toNat + 1) % memSize = s.pc.toNat + 1 := Nat.mod_eq_of_lt (by rw [memSize_eq]; omega)
  have hwf' : (s.memWrite s.pc.toNat hi).mem.wf := State.wf_memWrite hwf _ _
  have hhi : ((s.memWrite s.pc.toNat hi).memWrite (s.pc.toNat + 1) lo).mem.read s.pc.toNat = hi := by
    rw [State.read_memWrite_other _ (by omega), State.read_memWrite hwf, if_pos ha.symm]
  have hlo : ((s.memWrite s.pc.toNat hi).memWrite (s.pc.toNat + 1) lo).mem.read (s.pc.toNat + 1) = lo := by
    rw [State.read_memWrite hwf', if_pos hb.symm]
  rw [State.fetchWord, State.memWrite_pc, State.memWrite_pc, hhi, hlo, toNat_wordOfBytes]

end Sys2Proof.Machine
end

section
/-! PROOFS. Drawing (spec/40_display.md R92): what a piece of a drawing does to the canvas, from one pixel to a row to
the whole sprite. -/

namespace Sys2Proof.Machine

/-- The drawing `g` inverts exactly the pixels that `c` covers, and notes a hit when one of them was set. -/
structure Draws (g : Canvas → Canvas) (c : Fin 32 → Fin 64 → Prop) : Prop where
  inverts : ∀ k y x, c y x → (g k).fb.pixel y x = !k.fb.pixel y x
  keeps : ∀ k y x, ¬ c y x → (g k).fb.pixel y x = k.fb.pixel y x
  hit_iff : ∀ k, (g k).hit = true ↔ k.hit = true ∨ ∃ y x, c y x ∧ k.fb.pixel y x = true

theorem Draws.nothing {c : Fin 32 → Fin 64 → Prop} (h : ∀ y x, ¬ c y x) : Draws (fun k => k) c where
  inverts _ y x hc := absurd hc (h y x)
  keeps _ _ _ _ := rfl
  hit_iff k := by simp [h]

/-- The second of two drawings with no pixel in common meets on its own pixels what the first met. -/
theorem Draws.comp {g g' : Canvas → Canvas} {c c' : Fin 32 → Fin 64 → Prop} (h : Draws g c) (h' : Draws g' c')
    (disjoint : ∀ y x, c' y x → ¬ c y x) : Draws (fun k => g' (g k)) (fun y x => c y x ∨ c' y x) where
  inverts k y x hc := by
    by_cases hc' : c' y x
    · rw [h'.inverts _ y x hc', h.keeps k y x (disjoint y x hc')]
    · rw [h'.keeps _ y x hc', h.inverts k y x (hc.resolve_right hc')]
  keeps k y x hc := by
    obtain ⟨hc, hc'⟩ := not_or.1 hc
    rw [h'.keeps _ y x hc', h.keeps k y x hc]
  hit_iff k := by
    have hsecond (y : Fin 32) (x : Fin 64) :
        c' y x ∧ (g k).fb.pixel y x = true ↔ c' y x ∧ k.fb.pixel y x = true :=
      and_congr_right fun hc' => by rw [h.keeps k y x (disjoint y x hc')]
    simp only [h'.hit_iff, h.hit_iff, hsecond, or_and_right, exists_or, or_assoc]

/-- A sequence of drawings no two of which have a pixel in common. -/
theorem Draws.range {g : Nat → Canvas → Canvas} {c : Nat → Fin 32 → Fin 64 → Prop}
    (h : ∀ r, Draws (g r) (c r)) (n : Nat)
    (disjoint : ∀ r < n, ∀ q < r, ∀ y x, c r y x → ¬ c q y x) :
    Draws (fun k => (List.range n).foldl (fun k r => g r k) k) (fun y x => ∃ r < n, c r y x) := by
  induction n with
  | zero => exact .nothing (by simp)
  | succ n ih =>
    have hfirst := ih fun r hr => disjoint r (Nat.lt_succ_of_lt hr)
    have hlast := hfirst.comp (h n) fun y x hn ⟨q, hq, hc⟩ => disjoint n (Nat.lt_succ_self n) q hq y x hn hc
    simpa only [List.range_succ, List.foldl_append, List.foldl_cons, List.foldl_nil, Nat.exists_lt_succ_right]
      using hlast

theorem draws_xorPixel (py px : Nat) :
    Draws (fun k => xorPixel k py px) (fun y x => y.val = py % 32 ∧ x.val = px % 64) where
  inverts k y x hc := by rw [xorPixel_pixel, if_pos hc]
  keeps k y x hc := by rw [xorPixel_pixel, if_neg hc]
  hit_iff k := by
    let y₀ : Fin 32 := ⟨py % 32, Nat.mod_lt _ (by decide)⟩
    let x₀ : Fin 64 := ⟨px % 64, Nat.mod_lt _ (by decide)⟩
    have hpixel : (∃ (y : Fin 32) (x : Fin 64), (y.val = py % 32 ∧ x.val = px % 64) ∧ k.fb.pixel y x = true) ↔
        k.fb.pixel y₀ x₀ = true := by
      refine ⟨fun ⟨y, x, ⟨hy, hx⟩, hp⟩ => ?_, fun hp => ⟨y₀, x₀, ⟨rfl, rfl⟩, hp⟩⟩
      rwa [show y = y₀ from Fin.ext hy, show x = x₀ from Fin.ext hx] at hp
    rw [hpixel]
    exact Bool.or_eq_true_iff

/-- The row's columns, 8 in a circle of 64, are distinct. -/
theorem draws_drawRow (bits : Byte) (x0 py : Nat) :
    Draws (drawRow bits x0 py)
      (fun y x => ∃ c < 8, bits.getLsbD (7 - c) = true ∧ y.val = py % 32 ∧ x.val = (x0 + c) % 64) := by
  refine Draws.range (fun c => ?_) 8 fun c hc q hq y x ⟨_, _, hx⟩ ⟨_, _, hx'⟩ => by omega
  cases bits.getLsbD (7 - c)
  · exact .nothing (by simp)
  · simpa using draws_xorPixel py (x0 + c)

/-- A drawing of the sprite's rows, from any canvas. At most 32 rows, in a circle of 32, are distinct. -/
theorem draws_rows (s : State) {n : Nat} (hn : n ≤ 32) (x0 y0 : Nat) :
    Draws (fun k => (List.range n).foldl (fun k r => drawRow (s.spriteRead (s.dataAddr r)) x0 (y0 + r) k) k)
      (fun y x => ∃ r < n, ∃ c < 8, (s.spriteRead (s.dataAddr r)).getLsbD (7 - c) = true ∧
        y.val = (y0 + r) % 32 ∧ x.val = (x0 + c) % 64) :=
  Draws.range (fun r => draws_drawRow _ x0 (y0 + r)) n
    fun r hr q hq y x ⟨_, _, _, hy, _⟩ ⟨_, _, _, hy', _⟩ => by omega

/-- The statement's cover, which finds the row and the column of a pixel, is the drawing's, which runs through them. -/
theorem spriteCovers_iff (s : State) {n x0 y0 : Nat} (hn : n ≤ 32) (hx0 : x0 < 64) (hy0 : y0 < 32)
    (y : Fin 32) (x : Fin 64) :
    spriteCovers s n x0 y0 y x = true ↔
      ∃ r < n, ∃ c < 8, (s.spriteRead (s.dataAddr r)).getLsbD (7 - c) = true ∧
        y.val = (y0 + r) % 32 ∧ x.val = (x0 + c) % 64 := by
  have hcovers : spriteCovers s n x0 y0 y x = (decide ((y.val + 32 - y0) % 32 < n) &&
      (decide ((x.val + 64 - x0) % 64 < 8) &&
        (s.spriteRead (s.dataAddr ((y.val + 32 - y0) % 32))).getLsbD (7 - (x.val + 64 - x0) % 64))) := rfl
  simp only [hcovers, Bool.and_eq_true, decide_eq_true_eq]
  constructor
  · rintro ⟨hr, hc, hbit⟩
    exact ⟨_, hr, _, hc, hbit, by omega, by omega⟩
  · rintro ⟨r, hr, c, hc, hbit, hy, hx⟩
    obtain rfl : (y.val + 32 - y0) % 32 = r := by omega
    obtain rfl : (x.val + 64 - x0) % 64 = c := by omega
    exact ⟨hr, hc, hbit⟩

/-- What a whole drawing leaves: the covered pixels inverted, and a hit where one of them was set. -/
theorem drawSprite_spec (s : State) {n x0 y0 : Nat} (hn : n ≤ 32) (hx0 : x0 < 64) (hy0 : y0 < 32) :
    (∀ y x, (drawSprite s n x0 y0).fb.pixel y x = (s.fb.pixel y x ^^ spriteCovers s n x0 y0 y x)) ∧
    ((drawSprite s n x0 y0).hit = true ↔ ∃ y x, spriteCovers s n x0 y0 y x = true ∧ s.fb.pixel y x = true) := by
  have hdraws := draws_rows s hn x0 y0
  simp only [← spriteCovers_iff s hn hx0 hy0] at hdraws
  refine ⟨fun y x => ?_, (hdraws.hit_iff ⟨s.fb, false⟩).trans (by simp)⟩
  cases hc : spriteCovers s n x0 y0 y x
  · exact (hdraws.keeps ⟨s.fb, false⟩ y x (by simp [hc])).trans (Bool.xor_false _).symm
  · exact (hdraws.inverts ⟨s.fb, false⟩ y x hc).trans (Bool.xor_true _).symm

/-- The drawing of Dxyn, at the coordinates in `V[x]` and `V[y]`. -/
def State.drawing (s : State) (x y : Reg) (n : Nibble) : Canvas :=
  drawSprite s n.toNat ((s.reg x).toNat % 64) ((s.reg y).toNat % 32)

theorem exec_draw (x y : Reg) (n : Nibble) (s : State) :
    exec (.draw x y n) s =
      .next ((s.setReg regF (flagOf (s.drawing x y n).hit)).showDisplay (s.drawing x y n).fb) := rfl

/-- A nibble counts fewer than 32 rows, and the coordinates are reduced to the surface. -/
theorem State.drawing_spec (s : State) (x y : Reg) (n : Nibble) :
    let covers := spriteCovers s n.toNat ((s.reg x).toNat % 64) ((s.reg y).toNat % 32)
    (∀ py px, (s.drawing x y n).fb.pixel py px = (s.fb.pixel py px ^^ covers py px)) ∧
    ((s.drawing x y n).hit = true ↔ ∃ py px, covers py px = true ∧ s.fb.pixel py px = true) :=
  drawSprite_spec s (Nat.le_trans (Nat.le_of_lt n.isLt) (by decide)) (Nat.mod_lt _ (by decide))
    (Nat.mod_lt _ (by decide))

/-- Settles O38: VF is the flag of the drawing's hit, the surface is the drawing's, and draw writes nothing else. -/
theorem drawXorsSprite : Obligations.DrawXorsSprite := by
  intro x y n s
  obtain ⟨hpixel, hhit⟩ := s.drawing_spec x y n
  refine ⟨_, exec_draw x y n s, hpixel, fun hset => ?_, fun hclear => ?_, rfl, rfl, fun r hr => ?_, fun _ => rfl⟩
  · rw [State.showDisplay_reg, State.reg_setReg_same, hhit.2 hset]
    rfl
  · have hno := mt hhit.1 fun ⟨py, px, hc, hp⟩ => by simp [hclear py px hc] at hp
    rw [State.showDisplay_reg, State.reg_setReg_same, Bool.eq_false_iff.2 hno]
    rfl
  · rw [State.showDisplay_reg, State.reg_setReg_other s hr]

end Sys2Proof.Machine
end

section
/-! PROOFS. The decoder and the encoder against each other and against the opcode map (spec/30_encoding.md R73, R76,
R79, R80, R84). -/

namespace Sys2Proof

/-! ## Decoding an encoding -/

/-- The fields that the decoder reads of an instruction's word are the instruction's own, format by format (R73). -/
theorem decode_encode (i : Instr) : decode (encode i) = .ok i := by
  cases i with
  | clear | ret => rfl
  | jump | call | loadIndex | jumpOffset | skipIfEqImm | skipIfNeImm | loadImm | addImm | random | skipIfEqReg
  | skipIfNeReg | draw => simp [encode, decode]
  | move | or | and | xor | add | sub | shr | subn | shl => simp [encode, decode, decodeAlu]
  | skipIfKey | skipIfNotKey => simp [encode, decode, decodeKey]
  | readDelay | setDelay | setSound | addIndex | fontChar | bcd | storeRegs | loadRegs =>
    simp [encode, decode, decodeMisc]

theorem decodeBytes_encodeBytes (i : Instr) (rest : List Byte) :
    decodeBytes (encodeBytes i ++ rest) = .ok (i, rest) := by
  simp [encodeBytes, decodeBytes, decode_encode, Except.map]

/-- Settles O2: the bytes of an instruction are its word's, and the decoder reads the word's fields. -/
theorem decodeOfEncode : Obligations.DecodeOfEncode :=
  fun i rest => ⟨decode_encode i, decodeBytes_encodeBytes i rest⟩

/-! ## What the decoder answers -/

theorem nnn_eq_word {w : Word} {a : Nibble} (h : (fieldN1 w).toNat = a.toNat) : a ++ fieldNNN w = w := by
  rw [← BitVec.eq_of_toNat_eq h, ← word_eq_nnn]

theorem xkk_eq_word {w : Word} {a : Nibble} (h : (fieldN1 w).toNat = a.toNat) : a ++ fieldX w ++ fieldKK w = w := by
  rw [← BitVec.eq_of_toNat_eq h, ← word_eq_xkk]

theorem xop_eq_word {w : Word} {a : Nibble} {op : Byte} (h : (fieldN1 w).toNat = a.toNat)
    (hop : (fieldKK w).toNat = op.toNat) : a ++ fieldX w ++ op = w := by
  rw [← BitVec.eq_of_toNat_eq hop, xkk_eq_word h]

theorem xyn_eq_word {w : Word} {a n : Nibble} (h : (fieldN1 w).toNat = a.toNat) (hn : (fieldN w).toNat = n.toNat) :
    a ++ fieldX w ++ fieldY w ++ n = w := by
  rw [← BitVec.eq_of_toNat_eq h, ← BitVec.eq_of_toNat_eq hn, ← word_eq_xyn]

/-- What a decoder may answer on `w`: an instruction whose word is `w` (R84), or `w` rejected by name (R80). -/
def Answers (w : Word) : Except Reject Instr → Prop
  | .ok i => encode i = w
  | .error r => r = .unrecognized w

theorem decodeAlu_answers {w : Word} (h : (fieldN1 w).toNat = 0x8) : Answers w (decodeAlu w) := by
  unfold decodeAlu
  split
  case h_10 => rfl
  all_goals next hn => exact xyn_eq_word h hn

theorem decodeKey_answers {w : Word} (h : (fieldN1 w).toNat = 0xE) : Answers w (decodeKey w) := by
  unfold decodeKey
  split
  case h_3 => rfl
  all_goals next hop => exact xop_eq_word h hop

theorem decodeMisc_answers {w : Word} (h : (fieldN1 w).toNat = 0xF) : Answers w (decodeMisc w) := by
  unfold decodeMisc
  split
  case h_9 => rfl
  all_goals next hop => exact xop_eq_word h hop

/-- The decoder, primary nibble by primary nibble. -/
theorem decode_answers (w : Word) : Answers w (decode w) := by
  simp only [decode]
  split
  next =>
    split_ifs with hclear hret
    · exact hclear.symm
    · exact hret.symm
    · rfl
  next h => exact nnn_eq_word h
  next h => exact nnn_eq_word h
  next h => exact xkk_eq_word h
  next h => exact xkk_eq_word h
  next h =>
    split_ifs with hn
    · exact xyn_eq_word h (congrArg BitVec.toNat hn)
    · rfl
  next h => exact xkk_eq_word h
  next h => exact xkk_eq_word h
  next h => exact decodeAlu_answers h
  next h =>
    split_ifs with hn
    · exact xyn_eq_word h (congrArg BitVec.toNat hn)
    · rfl
  next h => exact nnn_eq_word h
  next h => exact nnn_eq_word h
  next h => exact xkk_eq_word h
  next h => exact xyn_eq_word h rfl
  next h => exact decodeKey_answers h
  next h => exact decodeMisc_answers h
  next => rfl

theorem encode_of_decode {w : Word} {i : Instr} (h : decode w = .ok i) : encode i = w := by
  have hw := decode_answers w
  rwa [h] at hw

theorem decode_error_eq {w : Word} {r : Reject} (h : decode w = .error r) : r = .unrecognized w := by
  have hw := decode_answers w
  rwa [h] at hw

/-- Settles O3: each branch of the decoder keeps the fields that its encoding puts back. -/
theorem encodeOfDecode : Obligations.EncodeOfDecode := fun _ _ => encode_of_decode

/-! ## The opcode map (R79) -/

/-- The laws of the family RowFits together. -/
theorem rowFits : ∀ i : Instr, Laws.RowFits.Statement i
  | .clear => Laws.RowFits.clear
  | .ret => Laws.RowFits.ret
  | .jump nnn => Laws.RowFits.jump nnn
  | .call nnn => Laws.RowFits.call nnn
  | .skipIfEqImm x kk => Laws.RowFits.skipIfEqImm x kk
  | .skipIfNeImm x kk => Laws.RowFits.skipIfNeImm x kk
  | .skipIfEqReg x y => Laws.RowFits.skipIfEqReg x y
  | .loadImm x kk => Laws.RowFits.loadImm x kk
  | .addImm x kk => Laws.RowFits.addImm x kk
  | .move x y => Laws.RowFits.move x y
  | .or x y => Laws.RowFits.or x y
  | .and x y => Laws.RowFits.and x y
  | .xor x y => Laws.RowFits.xor x y
  | .add x y => Laws.RowFits.add x y
  | .sub x y => Laws.RowFits.sub x y
  | .shr x y => Laws.RowFits.shr x y
  | .subn x y => Laws.RowFits.subn x y
  | .shl x y => Laws.RowFits.shl x y
  | .skipIfNeReg x y => Laws.RowFits.skipIfNeReg x y
  | .loadIndex nnn => Laws.RowFits.loadIndex nnn
  | .jumpOffset nnn => Laws.RowFits.jumpOffset nnn
  | .random x kk => Laws.RowFits.random x kk
  | .draw x y n => Laws.RowFits.draw x y n
  | .skipIfKey x => Laws.RowFits.skipIfKey x
  | .skipIfNotKey x => Laws.RowFits.skipIfNotKey x
  | .readDelay x => Laws.RowFits.readDelay x
  | .setDelay x => Laws.RowFits.setDelay x
  | .setSound x => Laws.RowFits.setSound x
  | .addIndex x => Laws.RowFits.addIndex x
  | .fontChar x => Laws.RowFits.fontChar x
  | .bcd x => Laws.RowFits.bcd x
  | .storeRegs x => Laws.RowFits.storeRegs x
  | .loadRegs x => Laws.RowFits.loadRegs x

section
variable {m : String} {mask v w : Word}

/-- A field that lies under a row's mask is the row's, in every word of the row. -/
theorem OpRow.field_of_matches (h : OpRow.matches ⟨m, mask, v⟩ w = true) (lo len : Nat)
    (hmask : mask.extractLsb' lo len = BitVec.allOnes len) : w.extractLsb' lo len = v.extractLsb' lo len := by
  have hv : w &&& mask = v := eq_of_beq h
  rw [← hv, BitVec.extractLsb'_and, hmask, BitVec.and_allOnes]

theorem OpRow.nibble_of_matches (h : OpRow.matches ⟨m, 0xF000#16, v⟩ w = true) : fieldN1 w = v.extractLsb' 12 4 :=
  field_of_matches h 12 4 (by decide)

theorem OpRow.nibbles_of_matches (h : OpRow.matches ⟨m, 0xF00F#16, v⟩ w = true) :
    fieldN1 w = v.extractLsb' 12 4 ∧ fieldN w = v.extractLsb' 0 4 :=
  ⟨field_of_matches h 12 4 (by decide), field_of_matches h 0 4 (by decide)⟩

theorem OpRow.nibble_byte_of_matches (h : OpRow.matches ⟨m, 0xF0FF#16, v⟩ w = true) :
    fieldN1 w = v.extractLsb' 12 4 ∧ fieldKK w = v.extractLsb' 0 8 :=
  ⟨field_of_matches h 12 4 (by decide), field_of_matches h 0 8 (by decide)⟩

theorem OpRow.eq_of_matches (h : OpRow.matches ⟨m, 0xFFFF#16, v⟩ w = true) : w = v :=
  BitVec.and_allOnes.symm.trans (eq_of_beq h)

end

/-- The bits under the mask of an instruction's row lead the decoder to that row. -/
theorem exists_decode_of_row_matches {w : Word} (i : Instr) (h : i.row.matches w = true) :
    ∃ j, decode w = .ok j ∧ j.row = i.row := by
  cases i with
  | clear | ret =>
    rw [OpRow.eq_of_matches h]
    exact ⟨_, rfl, rfl⟩
  | jump | call | loadIndex | jumpOffset | skipIfEqImm | skipIfNeImm | loadImm | addImm | random | draw =>
    have h1 := OpRow.nibble_of_matches h
    simp [decode, h1, Instr.row]
  | skipIfEqReg | skipIfNeReg =>
    obtain ⟨h1, hn⟩ := OpRow.nibbles_of_matches h
    simp [decode, h1, hn, Instr.row]
  | move | or | and | xor | add | sub | shr | subn | shl =>
    obtain ⟨h1, hn⟩ := OpRow.nibbles_of_matches h
    simp [decode, decodeAlu, h1, hn, Instr.row]
  | skipIfKey | skipIfNotKey =>
    obtain ⟨h1, hop⟩ := OpRow.nibble_byte_of_matches h
    simp [decode, decodeKey, h1, hop, Instr.row]
  | readDelay | setDelay | setSound | addIndex | fontChar | bcd | storeRegs | loadRegs =>
    obtain ⟨h1, hop⟩ := OpRow.nibble_byte_of_matches h
    simp [decode, decodeMisc, h1, hop, Instr.row]

/-- A row's value, the word with every operand 0, is an instruction of the row. -/
theorem decode_value_row : ∀ r ∈ opTable, (decode r.value).map Instr.row = .ok r := by decide

theorem exists_row_eq {r : OpRow} (hr : r ∈ opTable) : ∃ i : Instr, i.row = r := by
  have hv := decode_value_row r hr
  cases hd : decode r.value with
  | ok i => exact ⟨i, by simpa [hd, Except.map] using hv⟩
  | error => simp [hd, Except.map] at hv

/-- A word of a row decodes to an instruction of the row. -/
theorem exists_decode_of_matches {r : OpRow} {w : Word} (hr : r ∈ opTable) (hw : r.matches w = true) :
    ∃ i, decode w = .ok i ∧ i.row = r := by
  obtain ⟨i, rfl⟩ := exists_row_eq hr
  exact exists_decode_of_row_matches i hw

/-- The word of a decoded instruction is of the instruction's row. -/
theorem row_matches_of_decode {w : Word} {i : Instr} (h : decode w = .ok i) :
    i.row ∈ opTable ∧ i.row.matches w = true :=
  encode_of_decode h ▸ rowFits i

theorem Word.wellFormed_iff (w : Word) : w.wellFormed = true ↔ ∃ r ∈ opTable, r.matches w = true :=
  List.any_eq_true

/-- Settles O4: a word of a row is decoded, and a decoded word, being its instruction's encoding, is of a row. -/
theorem decodeAcceptsExactlyTheTable : Obligations.DecodeAcceptsExactlyTheTable := by
  intro w
  constructor
  · intro hwf
    obtain ⟨r, hr, hw⟩ := (Word.wellFormed_iff w).1 hwf
    obtain ⟨i, hi, -⟩ := exists_decode_of_matches hr hw
    exact ⟨i, hi⟩
  · intro hwf
    cases hd : decode w with
    | ok i => exact absurd ((Word.wellFormed_iff w).2 ⟨i.row, row_matches_of_decode hd⟩) (by simp [hwf])
    | error r => rw [decode_error_eq hd]

/-- Settles O5: a word decodes to one instruction only, and each row that it matches is that instruction's. -/
theorem decodedWordMatchesOneRow : Obligations.DecodedWordMatchesOneRow := by
  intro w i hi
  obtain ⟨hmem, hmatches⟩ := row_matches_of_decode hi
  refine ⟨hmem, hmatches, fun r hr hw => ?_⟩
  obtain ⟨j, hj, rfl⟩ := exists_decode_of_matches hr hw
  rw [Except.ok.inj (hj.symm.trans hi)]

/-- Settles O1: the words are closed, so the decoder runs on them. -/
theorem tableWordsDecode : Obligations.TableWordsDecode := by
  unfold Obligations.TableWordsDecode
  decide

end Sys2Proof
end

section
/-! PROOFS. Clearing the surface (spec/40_display.md R91), and the words `0nnn` that are no instruction
(spec/30_encoding.md R76, R77). -/

namespace Sys2Proof.Machine

theorem exec_clear (s : State) : exec .clear s = .next (s.showDisplay Display.blank) := rfl

/-- Of the group `n1 = 0`, the decoder accepts the words of clear and return alone (R76). -/
theorem decode_of_fieldN1_zero {w : Word} (h : fieldN1 w = 0) (hclear : w ≠ 0x00E0#16) (hret : w ≠ 0x00EE#16) :
    decode w = .error (.unrecognized w) := by
  simp [decode, h, hclear, hret]

/-- Settles O37: clear shows the blank surface, and a word `0nnn` is that of clear or return only with their `nnn`. -/
theorem clearBlanksSurface : Obligations.ClearBlanksSurface := by
  intro s
  refine ⟨decode_encode .clear, fun nnn hclear hret => ?_, ?_⟩
  · have hfield (w : Word) (hw : 0b0000#4 ++ nnn = w) : nnn = fieldNNN w := hw ▸ (fieldNNN_nnn _ nnn).symm
    exact decode_of_fieldN1_zero (fieldN1_nnn _ nnn) (fun hw => hclear (hfield _ hw)) (fun hw => hret (hfield _ hw))
  · exact ⟨_, exec_clear s, Display.pixel_blank, rfl, rfl, fun _ => rfl⟩

end Sys2Proof.Machine
end

section
/-! PROOFS. The jumps (spec/41_control_flow.md R101, R103), each one write of `PC`. -/

namespace Sys2Proof.Machine

theorem onlyPC_setPC (s : State) (u : Word) : OnlyPC s (s.setPC u) := ⟨rfl, fun _ => rfl⟩

theorem exec_jump (nnn : Addr12) (s : State) : exec (.jump nnn) s = .next (s.setPC (addrOf nnn)) := rfl

theorem exec_jumpOffset (nnn : Addr12) (s : State) :
    exec (.jumpOffset nnn) s = .next (s.setPC (s.jumpOffsetTarget nnn)) := rfl

/-- Settles O26: jump is one write of `PC`, and the target keeps its value in 16 bits. -/
theorem jumpGoesToTarget : Obligations.JumpGoesToTarget := fun nnn s =>
  ⟨decode_encode (.jump nnn), _, exec_jump nnn s, toNat_addrOf nnn, onlyPC_setPC s _⟩

/-! ## The operands of jump-offset (R75) -/

/-- The register field is the leading digit of the operand in base 256. -/
theorem offsetReg_eq (nnn : Addr12) : offsetReg nnn = BitVec.ofNat 4 (nnn.toNat / 256) :=
  congrArg (BitVec.ofNat 4) (Nat.shiftRight_eq_div_pow nnn.toNat 8)

theorem toNat_offsetImm (nnn : Addr12) : (offsetImm nnn).toNat = nnn.toNat % 256 := by
  simp [offsetImm]

/-- A 12-bit number and a byte have a sum below 2^16, so `PC` holds it unreduced. -/
theorem State.toNat_jumpOffsetTarget_legacy {s : State} (h : s.cfg.legacyJump = true) (nnn : Addr12) :
    (s.jumpOffsetTarget nnn).toNat = nnn.toNat + (s.reg 0).toNat := by
  have hn := nnn.isLt
  have hv := (s.reg 0).isLt
  rw [State.jumpOffsetTarget, if_pos h, toNat_add_setWidth_byte, toNat_addrOf, Nat.mod_eq_of_lt (by omega)]

/-- Two bytes have a sum below 2^16. -/
theorem State.toNat_jumpOffsetTarget_modern {s : State} (h : s.cfg.legacyJump = false) (nnn : Addr12) :
    (s.jumpOffsetTarget nnn).toNat =
      nnn.toNat % 256 + (s.reg (BitVec.ofNat 4 (nnn.toNat / 256))).toNat := by
  have hv := (s.reg (BitVec.ofNat 4 (nnn.toNat / 256))).isLt
  have himm : ((offsetImm nnn).setWidth 16).toNat = nnn.toNat % 256 :=
    (BitVec.toNat_setWidth_of_le (by decide)).trans (toNat_offsetImm nnn)
  rw [State.jumpOffsetTarget, if_neg (Bool.eq_false_iff.1 h), toNat_add_setWidth_byte, himm, offsetReg_eq,
    Nat.mod_eq_of_lt (by omega)]

/-- Settles O30: jump-offset is one write of `PC`, and in each mode the sum is too small to wrap. -/
theorem jumpOffsetAddsRegister : Obligations.JumpOffsetAddsRegister := fun nnn s =>
  ⟨decode_encode (.jumpOffset nnn), _, exec_jumpOffset nnn s, onlyPC_setPC s _,
    fun h => State.toNat_jumpOffsetTarget_legacy h nnn, fun h => State.toNat_jumpOffsetTarget_modern h nnn⟩

end Sys2Proof.Machine
end

section
/-! PROOFS. The conditional skips (spec/42_skips.md R111 to R117), each one write of `PC` decided by a test (R110), and
the words `5xyn` and `9xyn` that are no instruction (spec/30_encoding.md R77). -/

namespace Sys2Proof.Machine

/-! ## The skip (R110) -/

theorem State.skipIf_pc_of_true (s : State) {c : Bool} (h : c = true) : (s.skipIf c).pc = s.pc + 2 := if_pos h

theorem State.skipIf_pc_of_false (s : State) {c : Bool} (h : c = false) : (s.skipIf c).pc = s.pc :=
  if_neg (Bool.eq_false_iff.1 h)

theorem onlyPC_skipIf (s : State) (c : Bool) : OnlyPC s (s.skipIf c) := onlyPC_setPC s _

section
variable (s : State) (u v : Byte)

theorem State.skipIf_beq : OnlyPC s (s.skipIf (u == v)) ∧
    (u = v → (s.skipIf (u == v)).pc = s.pc + 2) ∧ (u ≠ v → (s.skipIf (u == v)).pc = s.pc) :=
  ⟨onlyPC_skipIf s _, fun heq => s.skipIf_pc_of_true (beq_iff_eq.2 heq),
    fun hne => s.skipIf_pc_of_false (beq_eq_false_iff_ne.2 hne)⟩

theorem State.skipIf_bne : OnlyPC s (s.skipIf (u != v)) ∧
    (u = v → (s.skipIf (u != v)).pc = s.pc) ∧ (u ≠ v → (s.skipIf (u != v)).pc = s.pc + 2) :=
  ⟨onlyPC_skipIf s _, fun heq => s.skipIf_pc_of_false (bne_eq_false_iff_eq.2 heq),
    fun hne => s.skipIf_pc_of_true (bne_iff_ne.2 hne)⟩

end

/-! ## Immediate and register tests -/

theorem exec_skipIfEqImm (x : Reg) (kk : Byte) (s : State) :
    exec (.skipIfEqImm x kk) s = .next (s.skipIf (s.reg x == kk)) := rfl

theorem exec_skipIfNeImm (x : Reg) (kk : Byte) (s : State) :
    exec (.skipIfNeImm x kk) s = .next (s.skipIf (s.reg x != kk)) := rfl

theorem exec_skipIfEqReg (x y : Reg) (s : State) :
    exec (.skipIfEqReg x y) s = .next (s.skipIf (s.reg x == s.reg y)) := rfl

theorem exec_skipIfNeReg (x y : Reg) (s : State) :
    exec (.skipIfNeReg x y) s = .next (s.skipIf (s.reg x != s.reg y)) := rfl

/-- Settles O22: the two skips test `==` and `!=` of the same register and byte. -/
theorem immediateSkipsTestEquality : Obligations.ImmediateSkipsTestEquality := fun x kk s =>
  ⟨decode_encode (.skipIfEqImm x kk), decode_encode (.skipIfNeImm x kk),
    ⟨_, exec_skipIfEqImm x kk s, s.skipIf_beq _ _⟩, ⟨_, exec_skipIfNeImm x kk s, s.skipIf_bne _ _⟩⟩

/-- Of the groups `n1 = 5` and `n1 = 9`, the decoder accepts the words with low nibble 0 alone (R76; C2). -/
theorem decode_of_fieldN_ne_zero {w : Word} (h : fieldN1 w = 5 ∨ fieldN1 w = 9) (hn : fieldN w ≠ 0) :
    decode w = .error (.unrecognized w) := by
  rcases h with h | h
  · simpa [decode, h] using hn
  · simpa [decode, h] using hn

/-- Settles O23: the two skips test `==` and `!=` of the same registers, and the low nibble of either word is `n`. -/
theorem registerSkipsTestEquality : Obligations.RegisterSkipsTestEquality := by
  refine fun x y n s => ⟨decode_encode (.skipIfEqReg x y), decode_encode (.skipIfNeReg x y), fun hn => ?_,
    ⟨_, exec_skipIfEqReg x y s, s.skipIf_beq _ _⟩, ⟨_, exec_skipIfNeReg x y s, s.skipIf_bne _ _⟩⟩
  have hlow (a : Nibble) : fieldN (a ++ x ++ y ++ n) ≠ 0 := by rwa [fieldN_xyn]
  exact ⟨decode_of_fieldN_ne_zero (.inl (fieldN1_xyn _ x y n)) (hlow _),
    decode_of_fieldN_ne_zero (.inr (fieldN1_xyn _ x y n)) (hlow _)⟩

/-! ## Key tests (R117) -/

section
variable {x : Reg} {s : State} (h : (s.reg x).toNat < 16)
include h

/-- On a key number that the snapshot has, the key test is a skip. -/
theorem keyTest_of_lt (wanted : Bool) (w : Word) :
    keyTest wanted w x s = .next (s.skipIf (s.keys.getLsbD (s.reg x).toNat == wanted)) := by
  rcases keyTest_cases wanted w x s with ⟨hge, -⟩ | ⟨-, hskip⟩
  · omega
  · exact hskip

theorem exec_skipIfKey_of_lt :
    exec (.skipIfKey x) s = .next (s.skipIf (s.keys.getLsbD (s.reg x).toNat == true)) := keyTest_of_lt h true _

theorem exec_skipIfNotKey_of_lt :
    exec (.skipIfNotKey x) s = .next (s.skipIf (s.keys.getLsbD (s.reg x).toNat == false)) := keyTest_of_lt h false _

end

/-- Settles O24: below 16 neither skip faults, and the two want opposite values of the same bit. -/
theorem keySkipsTestSnapshot : Obligations.KeySkipsTestSnapshot := by
  refine fun x s h => ⟨?_, ?_⟩
  · exact ⟨_, exec_skipIfKey_of_lt h, onlyPC_skipIf s _, fun hdown => s.skipIf_pc_of_true (beq_iff_eq.2 hdown),
      fun hup => s.skipIf_pc_of_false (beq_eq_false_iff_ne.2 (ne_true_of_eq_false hup))⟩
  · exact ⟨_, exec_skipIfNotKey_of_lt h, onlyPC_skipIf s _,
      fun hdown => s.skipIf_pc_of_false (beq_eq_false_iff_ne.2 (ne_false_of_eq_true hdown)),
      fun hup => s.skipIf_pc_of_true (beq_iff_eq.2 hup)⟩

end Sys2Proof.Machine
end

section
/-! PROOFS. The register and ALU instructions (spec/43_alu.md R120 to R130), each a sequence of register writes. An
instruction writes its flag before its destination, and a difference or a shift reads VF after that write (R133). -/

namespace Sys2Proof.Machine

/-! ## Register writes, and what they leave unchanged -/

theorem OnlyRegs.refl (w : Reg → Prop) (s : State) : OnlyRegs w s s := ⟨rfl, fun _ _ => rfl, fun _ => rfl⟩

theorem OnlyRegs.setReg {w : Reg → Prop} {s t : State} (h : OnlyRegs w s t) {x : Reg} (hx : w x) (u : Byte) :
    OnlyRegs w s (t.setReg x u) := by
  obtain ⟨hfields, hregs, hbytes⟩ := h
  refine ⟨congrArg (·.setReg x u) hfields, fun r hr => ?_, hbytes⟩
  have hne : r ≠ x := fun e => hr (e ▸ hx)
  exact (State.reg_setReg_other t hne u).trans (hregs r hr)

theorem State.setReg_reg_self (s : State) (x : Reg) : s.setReg x (s.reg x) = s := by
  simp [State.setReg, State.reg]

section
variable (s : State) (x : Reg)

theorem onlyRegs_setReg (u : Byte) : OnlyRegs (fun r => r = x) s (s.setReg x u) :=
  (OnlyRegs.refl (fun r => r = x) s).setReg rfl u

/-- The flag goes to VF, then the result to `V[x]`. -/
theorem onlyRegs_flagThenDest (f u : Byte) :
    OnlyRegs (fun r => r = x ∨ r = regF) s ((s.setReg regF f).setReg x u) :=
  ((OnlyRegs.refl _ s).setReg (.inr rfl) f).setReg (.inl rfl) u

variable {x}

/-- The flag is the final VF unless the result is written over it (R133). -/
theorem State.reg_flagThenDest (hx : x ≠ regF) (f u : Byte) : ((s.setReg regF f).setReg x u).reg regF = f := by
  rw [State.reg_setReg_other _ hx.symm, State.reg_setReg_same]

end

/-! ## Moves and logic: one write of `V[x]`, no flag -/

section
variable (x y : Reg) (kk : Byte) (s : State)

theorem exec_loadImm : exec (.loadImm x kk) s = .next (s.setReg x kk) := rfl
theorem exec_addImm : exec (.addImm x kk) s = .next (s.setReg x (s.reg x + kk)) := rfl
theorem exec_move : exec (.move x y) s = .next (s.setReg x (s.reg y)) := rfl
theorem exec_or : exec (.or x y) s = .next (s.setReg x (s.reg x ||| s.reg y)) := rfl
theorem exec_and : exec (.and x y) s = .next (s.setReg x (s.reg x &&& s.reg y)) := rfl
theorem exec_xor : exec (.xor x y) s = .next (s.setReg x (s.reg x ^^^ s.reg y)) := rfl

end

/-- Settles O12: load-imm is one write of `V[x]`. -/
theorem loadImmSetsRegister : Obligations.LoadImmSetsRegister := fun x kk s =>
  ⟨decode_encode (.loadImm x kk), _, exec_loadImm x kk s, s.reg_setReg_same x kk, onlyRegs_setReg s x kk⟩

/-- Settles O13: add-imm is one write of `V[x]`, and bytes add modulo 256. -/
theorem addImmWrapsWithoutFlag : Obligations.AddImmWrapsWithoutFlag := by
  refine fun x kk s => ⟨decode_encode (.addImm x kk), _, exec_addImm x kk s, ?_, onlyRegs_setReg s x _⟩
  rw [State.reg_setReg_same, BitVec.toNat_add]

/-- Settles O14: move is one write of `V[x]`; of a register to itself, it writes what is there. -/
theorem moveCopiesRegister : Obligations.MoveCopiesRegister := fun x y s =>
  ⟨decode_encode (.move x y), _, exec_move x y s, s.reg_setReg_same x _,
    fun hxy => hxy ▸ s.setReg_reg_self x, onlyRegs_setReg s x _⟩

/-- Settles O15: each is one write of `V[x]`, and the bits of the byte written are those of the operation. -/
theorem logicCombinesBits : Obligations.LogicCombinesBits := by
  refine fun x y s => ⟨⟨_, exec_or x y s, onlyRegs_setReg s x _, fun k => ?_⟩,
    ⟨_, exec_and x y s, onlyRegs_setReg s x _, fun k => ?_⟩,
    ⟨_, exec_xor x y s, onlyRegs_setReg s x _, fun k => ?_⟩⟩
  · rw [State.reg_setReg_same, BitVec.getLsbD_or]
  · rw [State.reg_setReg_same, BitVec.getLsbD_and]
  · rw [State.reg_setReg_same, BitVec.getLsbD_xor]

/-! ## The flags and the results as numbers -/

theorem flagOf_decide (c : Prop) [Decidable c] : flagOf (decide c) = if c then 1 else 0 := by
  simp [flagOf]

theorem toNat_greaterFlag (a b : Byte) : (greaterFlag a b).toNat = if a.toNat > b.toNat then 1 else 0 := by
  rw [greaterFlag, flagOf_decide, apply_ite BitVec.toNat]
  rfl

theorem toNat_lowBitFlag (a : Byte) : (lowBitFlag a).toNat = a.toNat % 2 := by
  simp [lowBitFlag, Nat.and_one_is_mod]

/-- Bit 7 is the topmost of a byte, so the quotient is at most 1. -/
theorem toNat_highBitFlag (a : Byte) : (highBitFlag a).toNat = a.toNat / 128 := by
  have ha := a.isLt
  have hbit : (highBitFlag a).toNat = a.toNat / 128 % 2 := by
    simp [highBitFlag, Nat.and_one_is_mod, Nat.shiftRight_eq_div_pow]
  omega

theorem toNat_sub_byte (a b : Byte) : (a - b).toNat = (a.toNat + 256 - b.toNat) % 256 := by
  have hb := b.isLt
  rw [BitVec.toNat_sub]
  omega

theorem toNat_ushiftRight_one (a : Byte) : (a >>> 1).toNat = a.toNat / 2 := by
  rw [BitVec.toNat_ushiftRight, Nat.shiftRight_eq_div_pow, Nat.pow_one]

theorem toNat_shiftLeft_one (a : Byte) : (a <<< 1).toNat = a.toNat * 2 % 256 := by
  rw [BitVec.toNat_shiftLeft, Nat.shiftLeft_eq, Nat.pow_one]

/-! ## Addition (R126) -/

theorem exec_add (x y : Reg) (s : State) :
    exec (.add x y) s =
      .next ((s.setReg regF (carryFlag (s.reg x) (s.reg y))).setReg x (s.reg x + s.reg y)) := rfl

/-- Settles O16: the sum is one of old values, written after the carry. -/
theorem addSetsCarryThenSum : Obligations.AddSetsCarryThenSum := by
  refine fun x y s => ⟨decode_encode (.add x y), _, exec_add x y s, ?_, fun hx => ?_, onlyRegs_flagThenDest s x _ _⟩
  · rw [State.reg_setReg_same, BitVec.toNat_add]
  · rw [State.reg_flagThenDest s hx, carryFlag, flagOf_decide]

/-! ## Subtraction (R127, R129) -/

/-- `V[p] - V[q]` as the registers read once the strict comparison of the two is in VF (R133). -/
def State.flaggedDifference (s : State) (p q : Reg) : Byte :=
  let t := s.setReg regF (greaterFlag (s.reg p) (s.reg q))
  t.reg p - t.reg q

theorem exec_sub (x y : Reg) (s : State) :
    exec (.sub x y) s =
      .next ((s.setReg regF (greaterFlag (s.reg x) (s.reg y))).setReg x (s.flaggedDifference x y)) := rfl

theorem exec_subn (x y : Reg) (s : State) :
    exec (.subn x y) s =
      .next ((s.setReg regF (greaterFlag (s.reg y) (s.reg x))).setReg x (s.flaggedDifference y x)) := rfl

/-- An operand that is VF counts as the flag, and any other as its old value. -/
theorem State.toNat_flaggedDifference (s : State) (p q : Reg) :
    (s.flaggedDifference p q).toNat =
      ((if p = regF then (greaterFlag (s.reg p) (s.reg q)).toNat else (s.reg p).toNat) + 256 -
        (if q = regF then (greaterFlag (s.reg p) (s.reg q)).toNat else (s.reg q).toNat)) % 256 := by
  simp only [State.flaggedDifference, toNat_sub_byte, State.reg_setReg, apply_ite BitVec.toNat]

section
variable (s : State) {p q : Reg}

theorem State.flaggedDifference_of_ne (hp : p ≠ regF) (hq : q ≠ regF) :
    (s.flaggedDifference p q).toNat = ((s.reg p).toNat + 256 - (s.reg q).toNat) % 256 := by
  rw [State.toNat_flaggedDifference, if_neg hp, if_neg hq]

theorem State.flaggedDifference_of_subtrahend (hp : p ≠ regF) (hq : q = regF) :
    (s.flaggedDifference p q).toNat =
      ((s.reg p).toNat + 256 - if (s.reg p).toNat > (s.reg q).toNat then 1 else 0) % 256 := by
  rw [State.toNat_flaggedDifference, if_neg hp, if_pos hq, toNat_greaterFlag]

theorem State.flaggedDifference_of_minuend (hp : p = regF) (hq : q ≠ regF) :
    (s.flaggedDifference p q).toNat =
      ((if (s.reg p).toNat > (s.reg q).toNat then 1 else 0) + 256 - (s.reg q).toNat) % 256 := by
  rw [State.toNat_flaggedDifference, if_pos hp, if_neg hq, toNat_greaterFlag]

theorem State.flaggedDifference_of_eq (h : p = q) : (s.flaggedDifference p q).toNat = 0 := by
  rw [h, State.flaggedDifference, BitVec.sub_self, BitVec.toNat_zero]

end

/-- Settles O17: the destination is the minuend, and each clause on the difference says which operands are VF. -/
theorem subSetsFlagThenDifference : Obligations.SubSetsFlagThenDifference := by
  refine fun x y s => ⟨decode_encode (.sub x y), _, exec_sub x y s, fun hx => ?_, ?_⟩
  · rw [State.reg_flagThenDest s hx, toNat_greaterFlag]
  · rw [State.reg_setReg_same]
    exact ⟨s.flaggedDifference_of_ne, s.flaggedDifference_of_subtrahend, s.flaggedDifference_of_minuend,
      s.flaggedDifference_of_eq, onlyRegs_flagThenDest s x _ _⟩

/-- Settles O18: as for sub, but the destination is the subtrahend. -/
theorem subnSetsFlagThenDifference : Obligations.SubnSetsFlagThenDifference := by
  refine fun x y s => ⟨decode_encode (.subn x y), _, exec_subn x y s, fun hx => ?_, ?_⟩
  · rw [State.reg_flagThenDest s hx, toNat_greaterFlag]
  · rw [State.reg_setReg_same]
    exact ⟨fun hx hy => s.flaggedDifference_of_ne hy hx, fun hx hy => s.flaggedDifference_of_minuend hy hx,
      fun hx hy => s.flaggedDifference_of_subtrahend hy hx, fun hxy => s.flaggedDifference_of_eq hxy.symm,
      onlyRegs_flagThenDest s x _ _⟩

/-! ## Shifts (R128, R130) -/

/-- The value that a shift shifts, in either mode. -/
def State.shiftOperand (s : State) (x y : Reg) : Byte := if s.cfg.legacyShift then s.reg y else s.reg x

/-- The state in which a shift reads `V[x]`: the operand is there, and then the bit shifted out went to VF. -/
def State.shiftReady (s : State) (x y : Reg) (bitOut : Byte → Byte) : State :=
  (s.setReg x (s.shiftOperand x y)).setReg regF (bitOut (s.shiftOperand x y))

theorem exec_shr (x y : Reg) (s : State) :
    exec (.shr x y) s =
      .next ((s.shiftReady x y lowBitFlag).setReg x ((s.shiftReady x y lowBitFlag).reg x >>> 1)) := by
  simp only [exec, execShr, State.shiftSource_eq, State.setVF_eq, State.reg_setReg_same]
  rfl

theorem exec_shl (x y : Reg) (s : State) :
    exec (.shl x y) s =
      .next ((s.shiftReady x y highBitFlag).setReg x ((s.shiftReady x y highBitFlag).reg x <<< 1)) := by
  simp only [exec, execShl, State.shiftSource_eq, State.setVF_eq, State.reg_setReg_same]
  rfl

section
variable (s : State) {x : Reg} (y : Reg) (bitOut : Byte → Byte) (u : Byte)

theorem State.shiftReady_reg_of_ne (hx : x ≠ regF) : (s.shiftReady x y bitOut).reg x = s.shiftOperand x y := by
  rw [State.shiftReady, State.reg_setReg_other _ hx, State.reg_setReg_same]

theorem State.shiftReady_reg_of_eq (hx : x = regF) :
    (s.shiftReady x y bitOut).reg x = bitOut (s.shiftOperand x y) := by
  rw [State.shiftReady, hx, State.reg_setReg_same]

/-- The bit shifted out is the final VF unless the result is written over it (R133). -/
theorem State.shiftReady_setReg_flag (hx : x ≠ regF) :
    ((s.shiftReady x y bitOut).setReg x u).reg regF = bitOut (s.shiftOperand x y) :=
  State.reg_flagThenDest _ hx _ u

theorem onlyRegs_shiftReady_setReg :
    OnlyRegs (fun r => r = x ∨ r = regF) s ((s.shiftReady x y bitOut).setReg x u) :=
  (((OnlyRegs.refl _ s).setReg (.inl rfl) _).setReg (.inr rfl) _).setReg (.inl rfl) u

end

/-- A flag of one bit has half 0. -/
theorem lowBitFlag_ushiftRight_one (a : Byte) : lowBitFlag a >>> 1 = 0 := by
  refine BitVec.eq_of_toNat_eq ?_
  rw [toNat_ushiftRight_one, toNat_lowBitFlag]
  exact Nat.div_eq_of_lt (Nat.mod_lt _ (by decide))

theorem toNat_highBitFlag_shiftLeft_one (a : Byte) : (highBitFlag a <<< 1).toNat = 2 * (a.toNat / 128) := by
  have ha := a.isLt
  rw [toNat_shiftLeft_one, toNat_highBitFlag]
  omega

/-- Settles O19: the shift reads the operand, or bit 0 of it where the destination is VF. -/
theorem shrShiftsLowBitOut : Obligations.ShrShiftsLowBitOut := by
  refine fun x y s => ⟨decode_encode (.shr x y), _, exec_shr x y s, fun hx => ⟨?_, ?_⟩, fun hx => ?_,
    onlyRegs_shiftReady_setReg s y _ _⟩
  · rw [State.shiftReady_setReg_flag s y _ _ hx, toNat_lowBitFlag, State.shiftOperand]
  · rw [State.reg_setReg_same, State.shiftReady_reg_of_ne s y _ hx, toNat_ushiftRight_one, State.shiftOperand]
  · rw [← hx, State.reg_setReg_same, State.shiftReady_reg_of_eq s y _ hx, lowBitFlag_ushiftRight_one]

/-- Settles O20: the shift reads the operand, or bit 7 of it where the destination is VF. -/
theorem shlShiftsHighBitOut : Obligations.ShlShiftsHighBitOut := by
  refine fun x y s => ⟨decode_encode (.shl x y), _, exec_shl x y s, fun hx => ⟨?_, ?_⟩, fun hx => ?_,
    onlyRegs_shiftReady_setReg s y _ _⟩
  · rw [State.shiftReady_setReg_flag s y _ _ hx, toNat_highBitFlag, State.shiftOperand]
  · rw [State.reg_setReg_same, State.shiftReady_reg_of_ne s y _ hx, toNat_shiftLeft_one, State.shiftOperand]
  · rw [← hx, State.reg_setReg_same, State.shiftReady_reg_of_eq s y _ hx, toNat_highBitFlag_shiftLeft_one,
      State.shiftOperand]

end Sys2Proof.Machine
end

section
/-! PROOFS. The index register and memory (spec/44_index_memory.md R140, R143 to R145). The cells that bcd and store-regs
write are distinct, since their offsets from `I` are below the size of memory, so each is read back as it was written. -/

namespace Sys2Proof.Machine

/-! ## Load-index (R140) -/

theorem exec_loadIndex (nnn : Addr12) (s : State) : exec (.loadIndex nnn) s = .next (s.setI (addrOf nnn)) := rfl

/-- Settles O31: load-index is one write of `I`, and the address keeps its value in 16 bits. -/
theorem loadIndexSetsIndex : Obligations.LoadIndexSetsIndex := fun nnn s =>
  ⟨decode_encode (.loadIndex nnn), _, exec_loadIndex nnn s, toNat_addrOf nnn, onlyIndex_setI s _⟩

/-- A number that fits keeps its value as a word. -/
theorem toNat_ofNat_of_lt {w n : Nat} (h : n < 2 ^ w) : (BitVec.ofNat w n).toNat = n :=
  (BitVec.toNat_ofNat n w).trans (Nat.mod_eq_of_lt h)

/-! ## Stores at offsets from `I` -/

theorem OnlyBytes.refl (w : Nat → Prop) (s : State) : OnlyBytes w s s := ⟨rfl, fun _ _ => rfl⟩

theorem OnlyBytes.memWrite {w : Nat → Prop} {s t : State} (h : OnlyBytes w s t) {a : Nat} (ha : w (a % memSize))
    (u : Byte) : OnlyBytes w s (t.memWrite a u) := by
  obtain ⟨hfields, hbytes⟩ := h
  refine ⟨congrArg (·.memWrite a u) hfields, fun b hb => ?_⟩
  have hne : b ≠ a % memSize := fun e => hb (e ▸ ha)
  exact (t.read_memWrite_other hne u).trans (hbytes b hb)

/-- Two offsets below the size of memory reach the same cell only if they are equal (R51). -/
theorem State.dataAddr_mod_inj (s : State) {j k : Nat} (hj : j < memSize) (hk : k < memSize) :
    s.dataAddr k % memSize = s.dataAddr j % memSize ↔ k = j := by
  rw [memSize_eq] at *
  simp only [State.dataAddr]
  omega

/-- A store at one offset, read at another. -/
theorem State.memRead_memWrite_dataAddr {t : State} (h : t.mem.wf) (s : State) {j k : Nat} (hj : j < memSize)
    (hk : k < memSize) (u : Byte) :
    (t.memWrite (s.dataAddr j) u).memRead (s.dataAddr k) = if k = j then u else t.memRead (s.dataAddr k) := by
  rw [State.memRead, State.read_memWrite h]
  simp only [s.dataAddr_mod_inj hj hk, State.memRead]

/-! ## Decimal digits (R143) -/

theorem toNat_hundreds (u : Byte) : (hundreds u).toNat = u.toNat / 100 :=
  toNat_ofNat_of_lt (by have := u.isLt; omega)

theorem toNat_tens (u : Byte) : (tens u).toNat = u.toNat / 10 % 10 :=
  toNat_ofNat_of_lt (by omega)

theorem toNat_ones (u : Byte) : (ones u).toNat = u.toNat % 10 :=
  toNat_ofNat_of_lt (by omega)

/-- The three stores of bcd, hundreds first, for the register's value `u`. -/
def State.storeDigits (s : State) (u : Byte) : State :=
  ((s.memWrite (s.dataAddr 0) (hundreds u)).memWrite (s.dataAddr 1) (tens u)).memWrite (s.dataAddr 2) (ones u)

theorem exec_bcd (x : Reg) (s : State) : exec (.bcd x) s = .next (s.storeDigits (s.reg x)) := rfl

/-- What the stores of bcd leave at an offset: a later store leaves the cells of the earlier ones. -/
theorem State.memRead_storeDigits {s : State} (h : s.mem.wf) (u : Byte) {k : Nat} (hk : k < memSize) :
    (s.storeDigits u).memRead (s.dataAddr k) =
      if k = 2 then ones u else if k = 1 then tens u else if k = 0 then hundreds u else s.memRead (s.dataAddr k) := by
  have h₀ := State.wf_memWrite h (s.dataAddr 0) (hundreds u)
  have h₁ := State.wf_memWrite h₀ (s.dataAddr 1) (tens u)
  rw [State.storeDigits, State.memRead_memWrite_dataAddr h₁ s (by decide) hk,
    State.memRead_memWrite_dataAddr h₀ s (by decide) hk,
    State.memRead_memWrite_dataAddr h s (by decide) hk]

theorem State.onlyBytes_storeDigits (s : State) (u : Byte) :
    OnlyBytes (fun a => ∃ k, k < 3 ∧ a = s.dataAddr k % memSize) s (s.storeDigits u) :=
  (((OnlyBytes.refl _ s).memWrite ⟨0, by decide, rfl⟩ _).memWrite ⟨1, by decide, rfl⟩ _).memWrite ⟨2, by decide, rfl⟩ _

/-- Settles O33: bcd is the three stores of digits that a byte holds, and each is read back from its own cell. -/
theorem bcdStoresDecimalDigits : Obligations.BcdStoresDecimalDigits := by
  intro x s h
  refine ⟨decode_encode (.bcd x), _, exec_bcd x s, ?_, ?_, ?_, s.onlyBytes_storeDigits _⟩
  · exact (congrArg BitVec.toNat (State.memRead_storeDigits h _ (by decide))).trans (toNat_hundreds _)
  · exact (congrArg BitVec.toNat (State.memRead_storeDigits h _ (by decide))).trans (toNat_tens _)
  · exact (congrArg BitVec.toNat (State.memRead_storeDigits h _ (by decide))).trans (toNat_ones _)

/-! ## Store-regs (R144) -/

theorem exec_storeRegs (x : Reg) (s : State) :
    exec (.storeRegs x) s = .next ((storeLoop (x.toNat + 1) s).setI
      (if s.cfg.legacyMemory then s.i + BitVec.ofNat 16 (x.toNat + 1) else s.i)) := rfl

@[simp] theorem storeLoop_dataAddr (n : Nat) (s : State) (k : Nat) : (storeLoop n s).dataAddr k = s.dataAddr k := by
  simp only [State.dataAddr, storeLoop_i]

theorem onlyBytes_storeLoop {w : Nat → Prop} (s : State) :
    ∀ n, (∀ k < n, w (s.dataAddr k % memSize)) → OnlyBytes w s (storeLoop n s)
  | 0, _ => .refl w s
  | n + 1, hw => by
    rw [storeLoop_succ, storeLoop_dataAddr]
    exact (onlyBytes_storeLoop s n fun k hk => hw k (by omega)).memWrite (hw n (by omega)) _

/-- The loop of stores leaves `V[k]` at offset `k`: a later pass writes another cell. -/
theorem memRead_storeLoop {s : State} (h : s.mem.wf) {n k : Nat} (hn : n ≤ 16) (hk : k < n) :
    (storeLoop n s).memRead (s.dataAddr k) = s.reg (BitVec.ofNat 4 k) := by
  induction n with
  | zero => omega
  | succ n ih =>
    have hsize := memSize_eq
    rw [storeLoop_succ, storeLoop_dataAddr, storeLoop_reg,
      State.memRead_memWrite_dataAddr (storeLoop_wf n h) s (by omega) (by omega)]
    split
    · next hkn => rw [hkn]
    · next hkn => exact ih (by omega) (by omega)

/-- Settles O34: the loop of stores writes the cells and nothing else, and the write of `I` comes after it. -/
theorem storeRegsCopiesToMemory : Obligations.StoreRegsCopiesToMemory := by
  intro x s h
  have hx := x.isLt
  obtain ⟨hfields, hbytes⟩ := onlyBytes_storeLoop (w := fun a => ∃ k, k ≤ x.toNat ∧ a = s.dataAddr k % memSize) s
    (x.toNat + 1) fun k hk => ⟨k, by omega, rfl⟩
  refine ⟨decode_encode (.storeRegs x), _, exec_storeRegs x s, fun r hr => ?_, ?_,
    congrArg (State.setI · _) hfields, hbytes⟩
  · have hread := memRead_storeLoop h (n := x.toNat + 1) (k := r.toNat) (by omega) (by omega)
    rwa [BitVec.ofNat_toNat, BitVec.setWidth_eq] at hread
  · rw [State.setI_i]
    split
    · rw [BitVec.toNat_add, BitVec.toNat_ofNat]
      omega
    · rfl

/-! ## Load-regs (R145) -/

theorem exec_loadRegs (x : Reg) (s : State) : exec (.loadRegs x) s = .next (loadLoop (x.toNat + 1) s) := rfl

theorem onlyRegs_loadLoop {w : Reg → Prop} (s : State) :
    ∀ n, (∀ k < n, w (BitVec.ofNat 4 k)) → OnlyRegs w s (loadLoop n s)
  | 0, _ => .refl w s
  | n + 1, hw => by
    rw [loadLoop_succ]
    exact (onlyRegs_loadLoop s n fun k hk => hw k (by omega)).setReg (hw n (by omega)) _

/-- The loop of loads reads `V[r]` at offset `r`, and a later pass writes another register. -/
theorem reg_loadLoop (s : State) {n : Nat} (hn : n ≤ 16) {r : Reg} (hr : r.toNat < n) :
    (loadLoop n s).reg r = s.memRead (s.dataAddr r.toNat) := by
  induction n with
  | zero => omega
  | succ n ih =>
    have hread : (loadLoop n s).memRead ((loadLoop n s).dataAddr n) = s.memRead (s.dataAddr n) := by
      simp only [State.memRead, State.dataAddr, loadLoop_i, loadLoop_mem]
    have hreg : (BitVec.ofNat 4 n).toNat = n := toNat_ofNat_of_lt (by omega)
    rw [loadLoop_succ, hread, State.reg_setReg]
    split
    · next hrn => rw [hrn, hreg]
    · next hrn =>
      have hne : r.toNat ≠ n := fun e => hrn (BitVec.eq_of_toNat_eq (e.trans hreg.symm))
      exact ih (by omega) (by omega)

/-- Settles O35: the loop of loads writes the registers and nothing else. -/
theorem loadRegsCopiesFromMemory : Obligations.LoadRegsCopiesFromMemory := by
  intro x s
  have hx := x.isLt
  refine ⟨decode_encode (.loadRegs x), _, exec_loadRegs x s, fun r hr => reg_loadLoop s (by omega) (by omega),
    loadLoop_i _ s, onlyRegs_loadLoop s _ fun k hk => ?_⟩
  rw [toNat_ofNat_of_lt (by omega)]
  omega

/-! ## Store-regs, then load-regs -/

/-- Settles O36: the load reads each register's cell, which holds what the store put there. -/
theorem storeThenLoadRestores : Obligations.StoreThenLoadRestores := by
  intro x s h
  obtain ⟨-, t, ht, hstored, -⟩ := storeRegsCopiesToMemory x s h
  refine ⟨t, ht, fun u hmem hi => ?_⟩
  obtain ⟨-, v, hv, hloaded, -⟩ := loadRegsCopiesFromMemory x u
  refine ⟨v, hv, fun r hr => ?_⟩
  calc v.reg r = u.memRead (u.dataAddr r.toNat) := hloaded r hr
    _ = t.memRead (s.dataAddr r.toNat) := by simp only [State.memRead, State.dataAddr, hmem, hi]
    _ = s.reg r := hstored r hr

end Sys2Proof.Machine
end

section
/-! PROOFS. The timer instructions (spec/45_timers.md R150 to R152), each one write, of a register or of a timer, and the
output `sound_on` (spec/60_exceptions.md R175). -/

namespace Sys2Proof.Machine

section
variable (x : Reg) (s : State)

theorem exec_readDelay : exec (.readDelay x) s = .next (s.setReg x s.dt) := rfl
theorem exec_setDelay : exec (.setDelay x) s = .next { s with dt := s.reg x } := rfl
theorem exec_setSound : exec (.setSound x) s = .next { s with st := s.reg x } := rfl

end

theorem State.soundOn_iff (s : State) : s.soundOn = true ↔ s.st ≠ 0 := bne_iff_ne

/-- Settles O40: read-delay is one write of `V[x]`, and set-delay and set-sound are one write of their timer. -/
theorem timerInstructionsMoveTimers : Obligations.TimerInstructionsMoveTimers := by
  refine fun x s => ⟨⟨_, exec_readDelay x s, ?_, onlyRegs_setReg s x s.dt⟩,
    ⟨_, exec_setDelay x s, rfl, rfl, fun _ => rfl⟩, ⟨_, exec_setSound x s, rfl, ?_, rfl, fun _ => rfl⟩⟩
  · exact s.reg_setReg_same x s.dt
  · exact State.soundOn_iff { s with st := s.reg x }

end Sys2Proof.Machine
end

section
/-! PROOFS. What every step keeps of `LOG` and of the configuration (spec/60_exceptions.md R168, R170; spec/10_state.md
R34), and the timer tick (spec/60_exceptions.md R174). -/

namespace Sys2Proof.Machine

/-! ## The log over one step (R168, R170) -/

/-- `LOG` gets at most one new entry, after the old ones. -/
def LogsAtMostOne (s t : State) : Prop := ∃ more, more.length ≤ 1 ∧ t.log = s.log ++ more

theorem LogsAtMostOne.silent {s t : State} (h : t.log = s.log) : LogsAtMostOne s t :=
  ⟨[], Nat.zero_le 1, by rw [h, List.append_nil]⟩

theorem LogsAtMostOne.entry {s t : State} {e : Report} (h : t.log = s.log ++ [e]) : LogsAtMostOne s t :=
  ⟨[e], Nat.le_refl 1, h⟩

theorem LogsAtMostOne.logGrows {s t : State} (h : LogsAtMostOne s t) : LogGrows s t :=
  let ⟨more, _, hlog⟩ := h
  ⟨more, hlog⟩

/-- Of the effects of an instruction only a report writes `LOG`. -/
theorem Effect.logsAtMostOne {i : Instr} {s t : State} (he : Effect i s t) : LogsAtMostOne s t := by
  cases he with
  | report e => exact .entry (s.report_log e)
  | _ => exact .silent rfl

/-- A step of the core reports at most once: an unrecognized word, or what the one instruction reports. -/
theorem coreStep_logsAtMostOne {s t : State} (h : coreStep s = .next t) : LogsAtMostOne s t := by
  rcases coreStep_cases s with ⟨-, e⟩ | ⟨-, -, e⟩ | ⟨-, -, e⟩ | ⟨-, -, -, e⟩ | ⟨-, -, i, -, e⟩
  case inr.inr.inr.inr =>
    have hlog : LogsAtMostOne s.advance t := (effect_of_exec (e.symm.trans h)).logsAtMostOne
    exact hlog
  all_goals obtain rfl := next_unique e h
  case inr.inr.inr.inl => exact .entry (s.advance.report_log _)
  all_goals exact .silent rfl

/-- The frame protocol around the core's step does not write `LOG`. -/
theorem step_logsAtMostOne {s t : State} (h : step s = .next t) : LogsAtMostOne s t := by
  rcases step_next h with ⟨-, rfl⟩ | ⟨-, u, hu, rfl⟩
  · exact .silent rfl
  · have hlog : LogsAtMostOne s.frameBegin u := coreStep_logsAtMostOne hu
    exact hlog

/-! ## From a step to a run -/

/-- A run of `n + 1` steps that reaches a state is one step, then a run of `n` steps. -/
theorem run_succ_next {M : Host.Core} {n : Nat} {s t : M.State} (h : M.run (n + 1) s = .next t) :
    ∃ u, M.step s = .next u ∧ M.run n u = .next t := by
  rw [Host.Core.run] at h
  split at h
  next u hu => exact ⟨u, hu, h⟩
  next => cases h
  next => cases h

/-- A reflexive and transitive relation that holds over every step holds over every run. -/
theorem rel_of_run {M : Host.Core} {R : M.State → M.State → Prop} (refl : ∀ s, R s s)
    (trans : ∀ {s t u}, R s t → R t u → R s u) (step : ∀ {s t}, M.step s = .next t → R s t) {n : Nat} {s t : M.State}
    (h : M.run n s = .next t) : R s t := by
  induction n generalizing s with
  | zero =>
    obtain rfl : s = t := Host.Outcome.next.inj h
    exact refl s
  | succ n ih =>
    obtain ⟨u, hstep, hrun⟩ := run_succ_next h
    exact trans (step hstep) (ih hrun)

theorem LogGrows.refl (s : State) : LogGrows s s := ⟨[], (List.append_nil s.log).symm⟩

theorem LogGrows.trans {s t u : State} (hst : LogGrows s t) (htu : LogGrows t u) : LogGrows s u := by
  obtain ⟨first, hfirst⟩ := hst
  obtain ⟨later, hlater⟩ := htu
  exact ⟨first ++ later, by rw [hlater, hfirst, List.append_assoc]⟩

/-- What a run of any length keeps: the entries of `LOG` (R168), `CFG` (R34) and `FONT_BASE` (R8). -/
structure LogAndConfigurationKept (s t : State) : Prop where
  log : LogGrows s t
  cfg : t.cfg = s.cfg
  fontBase : t.fontBase = s.fontBase

theorem LogAndConfigurationKept.refl (s : State) : LogAndConfigurationKept s s := ⟨.refl s, rfl, rfl⟩

theorem LogAndConfigurationKept.trans {s t u : State} (hst : LogAndConfigurationKept s t)
    (htu : LogAndConfigurationKept t u) : LogAndConfigurationKept s u :=
  ⟨hst.log.trans htu.log, htu.cfg.trans hst.cfg, htu.fontBase.trans hst.fontBase⟩

theorem step_logAndConfigurationKept {s t : State} (h : step s = .next t) : LogAndConfigurationKept s t := by
  have hlog := (step_logsAtMostOne h).logGrows
  rcases step_next h with ⟨-, rfl⟩ | ⟨-, u, hu, rfl⟩
  · exact .refl t
  · have hk := coreStep_outsideKept hu
    exact ⟨hlog, hk.cfg, hk.fontBase⟩

theorem run_logAndConfigurationKept {n : Nat} {s t : State} (h : core.run n s = .next t) :
    LogAndConfigurationKept s t :=
  rel_of_run (M := core) LogAndConfigurationKept.refl LogAndConfigurationKept.trans step_logAndConfigurationKept h

/-- Settles O51: a step reports at most once, and what a run keeps is what each of its steps keeps. -/
theorem logGrowsAndConfigurationStays : Obligations.LogGrowsAndConfigurationStays := by
  refine ⟨fun _ _ => step_logsAtMostOne, fun n s t hrun => ?_⟩
  obtain ⟨hlog, hcfg, hfont⟩ := run_logAndConfigurationKept hrun
  exact ⟨hlog, hcfg, hfont⟩

/-! ## The timer tick (R174) -/

theorem toNat_tickDown (u : Byte) : (tickDown u).toNat = u.toNat - 1 := by
  by_cases h : u = 0
  · rw [h]
    rfl
  · have hone : 1#8 ≤ u := by bv_omega
    rw [tickDown, if_neg h]
    exact BitVec.toNat_sub_of_le hone

/-- Settles O41: each timer ticks down on its own, and the tick writes no other field. -/
theorem timerTickSaturates : Obligations.TimerTickSaturates := fun s =>
  ⟨toNat_tickDown s.dt, toNat_tickDown s.st, rfl⟩

end Sys2Proof.Machine
end

section
/-! PROOFS. The step of the core inside the frame protocol (spec/30_encoding.md R78, spec/60_exceptions.md section 2):
what each step answers, condition by condition, and the causes for which a run stops (R161 to R170). -/

namespace Sys2Proof.Machine

/-! ## What a step answers (R78), condition by condition (R170) -/

theorem coreStep_answers (s : State) : ∃ t, coreStep s = .next t := by
  rcases coreStep_cases s with ⟨-, e⟩ | ⟨-, -, e⟩ | ⟨-, -, e⟩ | ⟨-, -, -, e⟩ | ⟨-, -, i, -, e⟩
  case inr.inr.inr.inr =>
    obtain ⟨t, ht, -⟩ := exec_effect i s.advance
    exact ⟨t, e.trans ht⟩
  all_goals exact ⟨_, e⟩

theorem step_answers (s : State) : ∃ t, step s = .next t := by
  by_cases h : s.status = .running
  · obtain ⟨t, ht⟩ := coreStep_answers s.frameBegin
    exact ⟨_, step_of_coreStep h ht⟩
  · exact ⟨s, step_stopped h⟩

/-- Settles O10: the core answers a next state under each of its conditions, and the frame protocol passes it on. -/
theorem everyStepAnswersNext : Obligations.EveryStepAnswersNext := fun s => ⟨step_answers s, coreStep_answers s⟩

theorem coreStep_decoded {s : State} {i : Instr} (h : s.status = .running) (hp : s.pc.toNat ≤ lastFetch)
    (hd : decode s.fetchWord = .ok i) : coreStep s = exec i s.advance :=
  (coreStep_fetch h hp).trans (dispatch_ok hd _)

theorem coreStep_undecoded {s : State} {r : Reject} (h : s.status = .running) (hp : s.pc.toNat ≤ lastFetch)
    (hd : decode s.fetchWord = .error r) : coreStep s = .next (s.advance.unrecognized s.fetchWord) :=
  (coreStep_fetch h hp).trans (dispatch_error hd _)

/-- Settles O6: the frame's opening leaves what the core's step tests and fetches, so the machine's step runs the same
instruction. -/
theorem stepRunsDecodedInstruction : Obligations.StepRunsDecodedInstruction := by
  intro s i h hp hd
  obtain ⟨t, ht, -⟩ := exec_effect i s.frameBegin.advance
  have hcore : coreStep s.frameBegin = .next t := (coreStep_decoded (s := s.frameBegin) h hp hd).trans ht
  exact ⟨coreStep_decoded h hp hd, t, ht, step_of_coreStep h hcore⟩

/-- The address that an executing instruction records is the one it was fetched from (R24). -/
theorem State.advance_pc_sub (s : State) : s.advance.pc - 2 = s.pc := BitVec.add_sub_cancel s.pc 2

theorem State.advance_unrecognized (s : State) (w : Word) :
    s.advance.unrecognized w = { s with pc := s.pc + 2, log := s.log ++ [.unrecognizedOpcode s.pc w] } := by
  rw [State.unrecognized_eq, State.advance_pc_sub]
  rfl

/-- Settles O7: the no-op is one report, whose address is that of the fetch. -/
theorem unrecognizedWordIsReportedNoOp : Obligations.UnrecognizedWordIsReportedNoOp := by
  intro s r h hp hd
  rw [coreStep_undecoded h hp hd, State.advance_unrecognized]
  exact ⟨rfl, rfl⟩

/-- Settles O8: the halt and the fault are each one write of `STATUS`. -/
theorem fetchPastEndStopsRun : Obligations.FetchPastEndStopsRun := by
  refine fun s h => ⟨fun hp => coreStep_pastEnd h hp, fun hp => (coreStep_top h hp).trans ?_, rfl, rfl⟩
  exact congrArg (fun a => Host.Outcome.next (s.raiseFault (.fetchStraddlesEnd a))) hp

/-! ## A stopped run (R169) -/

theorem run_succ {M : Host.Core} {n : Nat} {s t : M.State} (h : M.step s = .next t) : M.run (n + 1) s = M.run n t := by
  simp only [Host.Core.run, h]

theorem run_stopped (n : Nat) {s : State} (h : s.status ≠ .running) : core.run n s = .next s := by
  induction n with
  | zero => rfl
  | succ n ih => exact (run_succ (M := core) (step_stopped h)).trans ih

theorem frame_stopped {s : State} (h : s.status ≠ .running) (n : Nat) (ks : BitVec 16) : frame n ks s = .next s :=
  if_pos h

/-- Settles O9: the step, the run and the frame each test `STATUS` first. -/
theorem stoppedRunNeverChanges : Obligations.StoppedRunNeverChanges := fun _ h =>
  ⟨fun n => run_stopped n h, coreStep_stopped h, frame_stopped h⟩

/-! ## The causes of a stop (R163 to R166) -/

/-- The stop `st` is the fault that the instruction `i` raises on the state `s` after the `PC` advance, and the
condition of that fault holds. -/
inductive InstrFault (i : Instr) (s : State) : Status → Prop
  /-- Return with no entry on the stack (R163). -/
  | underflow (hi : i = .ret) (empty : s.sp.val = 0) : InstrFault i s (.faulted (.stackUnderflow (s.pc - 2) (encode i)))
  /-- A key skip on a number the snapshot does not have (R166). -/
  | key (x : Reg) (hi : i = .skipIfKey x ∨ i = .skipIfNotKey x) (past : 16 ≤ (s.reg x).toNat) :
      InstrFault i s (.faulted (.keyIndexOutOfRange (s.pc - 2) (encode i) (s.reg x)))

theorem keyTest_stops {i : Instr} {wanted : Bool} {x : Reg} {s t : State} (hi : i = .skipIfKey x ∨ i = .skipIfNotKey x)
    (h : keyTest wanted (encode i) x s = .next t) : t.status = s.status ∨ InstrFault i s t.status := by
  rcases keyTest_cases wanted (encode i) x s with ⟨past, e⟩ | ⟨-, e⟩
  · obtain rfl := next_unique e h
    exact .inr (.key x hi past)
  · obtain rfl := next_unique e h
    exact .inl rfl

/-- An instruction leaves `STATUS` as it was but for return and the two key skips, which may fault. -/
theorem exec_stops {i : Instr} {s t : State} (h : exec i s = .next t) :
    t.status = s.status ∨ InstrFault i s t.status := by
  cases i with
  | ret =>
    by_cases empty : s.sp.val = 0
    · obtain rfl := next_unique (execRet_empty empty) h
      exact .inr (.underflow rfl empty)
    · obtain rfl := next_unique (execRet_pops empty) h
      exact .inl rfl
  | skipIfKey x => exact keyTest_stops (.inl rfl) h
  | skipIfNotKey x => exact keyTest_stops (.inr rfl) h
  | call nnn =>
    by_cases full : s.sp.val = 16
    · obtain rfl := next_unique (execCall_full nnn full) h
      exact .inl rfl
    · obtain rfl := next_unique (execCall_room nnn (by omega)) h
      exact .inl (s.push_status s.pc)
  | storeRegs x =>
    obtain rfl := next_unique rfl h
    exact .inl (storeLoop_status _ s)
  | loadRegs x =>
    obtain rfl := next_unique rfl h
    exact .inl (loadLoop_status _ s)
  | _ =>
    obtain rfl := next_unique rfl h
    exact .inl rfl

/-- What a faulting instruction records is what was fetched, since a decoded word is its instruction's encoding. -/
theorem InstrFault.stopCause {i : Instr} {s : State} {st : Status} (h : InstrFault i s.advance st)
    (hd : decode s.fetchWord = .ok i) : StopCause s st := by
  have hw : encode i = s.fetchWord := encode_of_decode hd
  cases h with
  | underflow hi empty => exact ⟨hi ▸ hd, empty, s.advance_pc_sub, hw⟩
  | key x hi past =>
    refine ⟨x, ?_, rfl, past, s.advance_pc_sub, hw⟩
    rcases hi with rfl | rfl
    · exact .inl hd
    · exact .inr hd

theorem coreStep_stopCause {s t : State} (hr : s.status = .running) (h : coreStep s = .next t)
    (hstop : t.status ≠ .running) : StopCause s t.status := by
  rcases coreStep_cases s with ⟨hs, -⟩ | ⟨-, hp, e⟩ | ⟨-, hp, e⟩ | ⟨-, -, -, e⟩ | ⟨-, -, i, hd, e⟩
  · exact absurd hr hs
  · obtain rfl := next_unique e h
    exact ⟨hp, rfl⟩
  · obtain rfl := next_unique e h
    exact ⟨hp, rfl⟩
  · obtain rfl := next_unique e h
    exact absurd hr hstop
  · rcases exec_stops (e.symm.trans h) with hkept | hfault
    · exact absurd (hkept.trans hr) hstop
    · exact hfault.stopCause hd

/-- What a stop's cause says does not depend on the frame's opening. -/
theorem stopCause_of_frameBegin {s : State} {st : Status} (h : StopCause s.frameBegin st) : StopCause s st := by
  cases st with
  | running => exact h
  | halted c => cases c; exact h
  | faulted f => cases f <;> exact h

/-- Settles O11: the machine stops where the core does, and the frame protocol around the core's step writes neither
`STATUS` nor what a cause speaks of. -/
theorem stopsOnlyForNamedCauses : Obligations.StopsOnlyForNamedCauses := by
  intro s t hr h hstop
  rcases step_next h with ⟨hs, -⟩ | ⟨-, u, hu, rfl⟩
  · exact absurd hr hs
  · have hcause : StopCause s.frameBegin u.status := coreStep_stopCause hr hu hstop
    exact stopCause_of_frameBegin hcause

end Sys2Proof.Machine
end

section
/-! PROOFS. A frame of machine steps against the whole `Frame()` (spec/60_exceptions.md R176). The machine counts its
steps in the frame position, which `Frame()` leaves alone, so the two runs agree up to that field. -/

namespace Sys2Proof.Machine

/-! ## No meaning reads the frame position -/

/-- The state at another frame position. -/
def State.withFramePos (s : State) (p : Nat) : State := { s with framePos := p }

/-- The run of `r` goes on to a state, and `r'` to the same state at frame position `p`. -/
def AgreeUpToPos (p : Nat) (r r' : Result) : Prop := ∃ t, r = .next t ∧ r' = .next (t.withFramePos p)

theorem exec_withFramePos (i : Instr) (s : State) (p : Nat) : AgreeUpToPos p (exec i s) (exec i (s.withFramePos p)) := by
  cases i with
  | ret =>
    by_cases h : s.sp.val = 0
    · exact ⟨_, execRet_empty h, execRet_empty h⟩
    · exact ⟨_, execRet_pops h, execRet_pops h⟩
  | call nnn =>
    by_cases h : s.sp.val = 16
    · exact ⟨_, execCall_full nnn h, execCall_full nnn h⟩
    · have room : s.sp.val < 16 := by omega
      exact ⟨_, execCall_pushAndJump nnn room, execCall_pushAndJump (s := s.withFramePos p) nnn room⟩
  | skipIfKey x | skipIfNotKey x =>
    by_cases h : keyOutOfRange (s.reg x)
    · exact ⟨_, if_pos h, if_pos h⟩
    · exact ⟨_, if_neg h, if_neg h⟩
  | storeRegs x =>
    have hc := storeLoop_comm (f := (·.withFramePos p)) (fun _ => rfl) (fun _ _ => rfl) (fun _ _ _ => rfl) (x.toNat + 1) s
    exact ⟨_, rfl, by simp only [exec, execStoreRegs, hc]; rfl⟩
  | loadRegs x =>
    have hc := loadLoop_comm (f := (·.withFramePos p)) (fun _ => rfl) (fun _ => rfl) (fun _ _ _ => rfl) (x.toNat + 1) s
    exact ⟨_, rfl, congrArg Host.Outcome.next hc⟩
  | _ => exact ⟨_, rfl, rfl⟩

theorem coreStep_withFramePos (s : State) (p : Nat) :
    AgreeUpToPos p (coreStep s) (coreStep (s.withFramePos p)) := by
  rcases coreStep_cases s with ⟨h, e⟩ | ⟨h, hp, e⟩ | ⟨h, hp, e⟩ | ⟨h, hp, ⟨r, hd⟩, e⟩ | ⟨h, hp, i, hd, e⟩
  · exact ⟨_, e, coreStep_stopped h⟩
  · exact ⟨_, e, coreStep_pastEnd h hp⟩
  · exact ⟨_, e, coreStep_top h hp⟩
  · exact ⟨_, e, (coreStep_fetch (s := s.withFramePos p) h hp).trans (dispatch_error hd _)⟩
  · rw [e, (coreStep_fetch (s := s.withFramePos p) h hp).trans (dispatch_ok hd _)]
    exact exec_withFramePos i s.advance p

/-! ## The batch of steps -/

theorem batch_stops {k : Nat} {s t : State} (h : coreStep s = .next t) (hstop : t.status ≠ .running) :
    batch (k + 1) s = .next t := by
  simp only [batch, h, if_neg hstop]

theorem batch_goes_on {k : Nat} {s t : State} (h : coreStep s = .next t) (hr : t.status = .running) :
    batch (k + 1) s = batch k t := by
  simp only [batch, h, if_pos hr]

theorem batch_withFramePos (k : Nat) (s : State) (p : Nat) :
    AgreeUpToPos p (batch k s) (batch k (s.withFramePos p)) := by
  induction k generalizing s with
  | zero => exact ⟨s, rfl, rfl⟩
  | succ k ih =>
    obtain ⟨t, h, h'⟩ := coreStep_withFramePos s p
    by_cases hr : t.status = .running
    · rw [batch_goes_on h hr, batch_goes_on h' hr]
      exact ih t
    · exact ⟨t, batch_stops h hr, batch_stops h' hr⟩

/-- No step of a batch writes the frame position: the same batch answers its state at the position it began with. -/
theorem batch_framePos {k : Nat} {s t : State} (h : batch k s = .next t) : t.framePos = s.framePos := by
  obtain ⟨u, -, hu'⟩ := batch_withFramePos k s s.framePos
  have ht : t = u.withFramePos s.framePos := next_unique h hu'
  rw [ht]
  rfl

/-! ## The frame's opening and its closing -/

theorem State.frameBegin_first {s : State} (h : s.framePos = 0) :
    s.frameBegin = { s with keys := Config.keysIn s.frameNo, frameNo := s.frameNo + 1 } :=
  s.frameBegin_eq.trans (if_pos h)

theorem State.frameBegin_later {s : State} (h : s.framePos ≠ 0) : s.frameBegin = s :=
  s.frameBegin_eq.trans (if_neg h)

theorem closeFrame_running {s : State} (h : s.status = .running) : closeFrame s = s.timerTick.offerRedraw := if_pos h

theorem closeFrame_stopped {s : State} (h : s.status ≠ .running) : closeFrame s = s := if_neg h

theorem closeFrame_status (s : State) : (closeFrame s).status = s.status := by
  by_cases h : s.status = .running
  · rw [closeFrame_running h]
    rfl
  · rw [closeFrame_stopped h]

theorem closeFrame_framePos (s : State) : (closeFrame s).framePos = s.framePos := by
  by_cases h : s.status = .running
  · rw [closeFrame_running h]
    rfl
  · rw [closeFrame_stopped h]

theorem closeFrame_withFramePos (s : State) (p q : Nat) :
    (closeFrame (s.withFramePos p)).withFramePos q = (closeFrame s).withFramePos q := by
  by_cases h : s.status = .running
  · rw [closeFrame_running h, closeFrame_running (s := s.withFramePos p) h]
    rfl
  · rw [closeFrame_stopped h, closeFrame_stopped (s := s.withFramePos p) h]
    rfl

/-! ## The rest of a frame, step by step -/

/-- The machine's `k` steps from `s` are the rest of the frame that the batch of `k` steps performs: it ends as the
closing of the batch does, but for the frame position, which is 0 again if the run goes on. -/
def RestOfFrame (k : Nat) (s : State) : Prop :=
  ∃ b q, batch k s.frameBegin = .next b ∧ core.run k s = .next ((closeFrame b).withFramePos q) ∧
    (b.status = .running → q = 0)

section
variable {s b : State} (hr : s.status = .running) (hb : coreStep s.frameBegin = .next b)
include hr hb

/-- A stop ends the batch, and the steps that are left change nothing. -/
theorem restOfFrame_stop (k : Nat) (hstop : b.status ≠ .running) : RestOfFrame (k + 1) s := by
  have hstep : step s = .next b := by rw [step_of_coreStep hr hb, State.frameEnd_stopped b hstop]
  refine ⟨b, b.framePos, batch_stops hb hstop, ?_, fun hgo => absurd hgo hstop⟩
  rw [closeFrame_stopped hstop]
  exact (run_succ (M := core) hstep).trans (run_stopped k hstop)

/-- The last step closes the frame. -/
theorem restOfFrame_last (hpos : Config.ipf ≤ b.framePos + 1) (hgo : b.status = .running) : RestOfFrame 1 s := by
  have hstep : step s = .next ((closeFrame b).withFramePos 0) := by
    rw [step_of_coreStep hr hb, State.frameEnd_last b hgo (b.frameDone_iff.2 hpos), closeFrame_running hgo]
    rfl
  exact ⟨b, 0, batch_goes_on hb hgo, run_succ (M := core) hstep, fun _ => rfl⟩

/-- An earlier step counts itself, and the rest of the frame runs on from there; it loads no snapshot, and the batch
runs on from the same state at the old position. -/
theorem restOfFrame_inside {k : Nat} (hpos : b.framePos + 1 < Config.ipf) (hgo : b.status = .running)
    (hrest : RestOfFrame k (b.withFramePos (b.framePos + 1))) : RestOfFrame (k + 1) s := by
  have hstep : step s = .next (b.withFramePos (b.framePos + 1)) := by
    rw [step_of_coreStep hr hb, State.frameEnd_inside b hgo (b.frameDone_eq_false_iff.2 hpos)]
    rfl
  have hopen : (b.withFramePos (b.framePos + 1)).frameBegin = b.withFramePos (b.framePos + 1) :=
    State.frameBegin_later (Nat.succ_ne_zero _)
  obtain ⟨c', q, hbatch', hrun, hq⟩ := hrest
  obtain ⟨c, hbatch, hc⟩ := batch_withFramePos k b (b.framePos + 1)
  rw [hopen] at hbatch'
  obtain rfl := next_unique hc hbatch'
  rw [closeFrame_withFramePos] at hrun
  exact ⟨c, q, (batch_goes_on hb hgo).trans hbatch, (run_succ (M := core) hstep).trans hrun, hq⟩

end

/-- By induction on the steps of the frame that follow the next one. -/
theorem restOfFrame (k : Nat) {s : State} (hr : s.status = .running) (hk : s.framePos + (k + 1) = Config.ipf) :
    RestOfFrame (k + 1) s := by
  induction k generalizing s with
  | zero =>
    obtain ⟨b, hb⟩ := coreStep_answers s.frameBegin
    have hpos : b.framePos = s.framePos := (coreStep_outsideKept hb).framePos
    by_cases hgo : b.status = .running
    · exact restOfFrame_last hr hb (by omega) hgo
    · exact restOfFrame_stop hr hb 0 hgo
  | succ k ih =>
    obtain ⟨b, hb⟩ := coreStep_answers s.frameBegin
    have hpos : b.framePos = s.framePos := (coreStep_outsideKept hb).framePos
    by_cases hgo : b.status = .running
    · refine restOfFrame_inside hr hb (by omega) hgo (ih hgo ?_)
      show b.framePos + 1 + (k + 1) = Config.ipf
      omega
    · exact restOfFrame_stop hr hb (k + 1) hgo

theorem frame_running {n : Nat} {ks : BitVec 16} {s b : State} (hr : s.status = .running)
    (hb : batch n (s.loadKeys ks) = .next b) : frame n ks s = .next (closeFrame b) := by
  simp only [frame, hr, ne_eq, not_true_eq_false, if_false, hb]

/-- Settles O43: from position 0 the rest of the frame is all of it, `Frame()` starts its batch where the machine's
first step does, and neither the batch nor the closing writes the position. -/
theorem frameIsIpfSteps : Obligations.FrameIsIpfSteps := by
  intro s hr h0
  obtain ⟨b, q, hbatch, hrun, hq⟩ := restOfFrame Config.ipfPred hr (by rw [h0, Nat.zero_add]; rfl)
  have hpos : (closeFrame b).framePos = 0 := by
    rw [closeFrame_framePos, batch_framePos hbatch]
    exact h0
  rw [State.frameBegin_first h0] at hbatch
  refine ⟨_, closeFrame b, hrun, frame_running (s := { s with frameNo := s.frameNo + 1 }) hr hbatch, rfl, fun hgo => ?_⟩
  rw [hq ((closeFrame_status b).symm.trans hgo), ← hpos]
  rfl

end Sys2Proof.Machine
end

section
/-! PROOFS. Drawing a sprite twice (spec/90_conflicts.md C7): the second drawing covers the pixels the first did, so it
inverts each of them back. -/

namespace Sys2Proof.Machine

/-- What a sprite covers depends on `I` and memory alone. -/
theorem spriteCovers_congr {s t : State} (hi : t.i = s.i) (hmem : t.mem = s.mem) : spriteCovers t = spriteCovers s := by
  funext n x0 y0 py px
  simp only [spriteCovers, hi, hmem]

/-- Settles O39: the first drawing leaves the coordinates, which are not VF, and the sprite; the second meets on the
pixels that the sprite covers what the first left there, which on a blank surface are set pixels. -/
theorem drawTwiceRestoresSurface : Obligations.DrawTwiceRestoresSurface := by
  intro x y n s hx hy covers
  obtain ⟨t, ht, htpixel, -, htclear, -, htfields, htregs, -⟩ := drawXorsSprite x y n s
  obtain ⟨u, hu, hupixel, huset, huclear, -⟩ := drawXorsSprite x y n t
  have hi : t.i = s.i := by rw [htfields]
  have hmem : t.mem = s.mem := by rw [htfields]
  rw [spriteCovers_congr hi hmem, htregs x hx, htregs y hy] at hupixel huset huclear
  refine ⟨t, u, ht, hu, Display.ext fun py px => ?_, fun hblank => ?_⟩
  · rw [hupixel, htpixel, Bool.xor_assoc, Bool.xor_self, Bool.xor_false]
  · have hdark (py px) : s.fb.pixel py px = false := by rw [hblank, Display.pixel_blank]
    have hlit (py px) : t.fb.pixel py px = covers py px := by rw [htpixel, hdark, Bool.false_xor]
    refine ⟨htclear fun py px _ => hdark py px, fun ⟨py, px, hc⟩ => ?_, fun hnone => ?_⟩
    · exact huset ⟨py, px, hc, (hlit py px).trans hc⟩
    · exact huclear fun py px _ => (hlit py px).trans (hnone py px)

end Sys2Proof.Machine
end

section
/-! PROOFS. Three more instructions: call (spec/41_control_flow.md R102, R162), random
(spec/43_alu.md R131) and the key skips past the snapshot (spec/42_skips.md R117, R166). -/

namespace Sys2Proof.Machine

/-- Settles O27: with room, call is one push and one write of `PC`; without, one report. -/
theorem callPushesOrReportsOverflow : Obligations.CallPushesOrReportsOverflow := by
  refine fun nnn s => ⟨decode_encode (.call nnn), fun room => ?_, fun full => execCall_full nnn full, rfl⟩
  exact ⟨_, execCall_pushAndJump nnn room, toNat_addrOf nnn, rfl, s.pushAndJump_entry room nnn, rfl, fun _ => rfl⟩

theorem exec_random (x : Reg) (kk : Byte) (s : State) :
    exec (.random x kk) s = .next (s.takeRandom.2.setReg x (Config.rndIn s.drawNo &&& kk)) := rfl

/-- Settles O21: random counts the draw, then writes `V[x]` alone. -/
theorem randomMasksOneDraw : Obligations.RandomMasksOneDraw := by
  intro x kk s
  have hx := s.takeRandom.2.reg_setReg_same x (Config.rndIn s.drawNo &&& kk)
  refine ⟨_, exec_random x kk s, hx, rfl, fun h0 => ?_, onlyRegs_setReg _ x _⟩
  rw [hx, h0]
  exact BitVec.and_zero

/-- On a key number that the snapshot does not have, the key test is a fault. -/
theorem keyTest_of_ge {x : Reg} {s : State} (h : 16 ≤ (s.reg x).toNat) (wanted : Bool) (w : Word) :
    keyTest wanted w x s = .next (s.raiseFault (.keyIndexOutOfRange (s.pc - 2) w (s.reg x))) := by
  rcases keyTest_cases wanted w x s with ⟨-, hfault⟩ | ⟨hlt, -⟩
  · exact hfault
  · omega

/-- Settles O25: each key skip is a key test with its own word, and the fault is one write of `STATUS`. -/
theorem keyNumberPastSnapshotFaults : Obligations.KeyNumberPastSnapshotFaults := fun _ _ h =>
  ⟨keyTest_of_ge h true _, keyTest_of_ge h false _, rfl⟩

end Sys2Proof.Machine
end

section
/-! PROOFS. The state after initialization (spec/10_state.md R42, spec/70_reset_and_hazards.md R191, R192). -/

namespace Sys2Proof.Machine

theorem State.reset_reg (r : Reg) : State.reset.reg r = 0 := Vector.getElem_replicate r.isLt

/-- Outside the default font an unlisted cell holds 0x00 (D5). -/
theorem unlisted_outside_font {a : Nat} (h : a < 0x050 ∨ 0x0A0 ≤ a) : unlisted a = 0 := by
  have hbase : fontBase = 0x050 := rfl
  have hlen : font.length = 80 := rfl
  rw [unlisted]
  split
  · exact List.getD_eq_default _ _ (by omega)
  · rfl

/-- Settles O45: no register or pixel is set, and memory lists nothing, so it reads as the default font. -/
theorem resetState : Obligations.ResetState := by
  refine ⟨State.reset_reg, rfl, rfl, rfl, rfl, rfl, Display.pixel_blank, rfl, rfl, rfl, rfl, rfl, rfl, rfl,
    fun _ h => unlisted_outside_font (.inl h), fun _ h => unlisted_outside_font (.inr h), ?_⟩
  decide

/-- Settles O47: the lists are empty, no stack entry is valid, and position 0 is in every frame. -/
theorem resetMeetsInvariants : Obligations.ResetMeetsInvariants :=
  ⟨Memory.wf_nil, ⟨by decide, fun _ hk => absurd hk (Nat.not_lt_zero _)⟩, Nat.succ_pos Config.ipfPred,
    nofun, fun _ _ => List.not_mem_nil⟩

end Sys2Proof.Machine
end
